-- ==== Sys2Proof/Word.lean ====
section
/-! DEFINITION. The words of the EQ_Lite DSP block: register and bus words, bus byte addresses, FIFO pointers
(spec 00_scope.md R11, R16). -/

namespace Sys2Proof

/-- A register, bus, sample or coefficient word: 32 bits (R11). -/
abbrev Word := BitVec 32

/-- One byte lane of a word (R85). -/
abbrev Byte := BitVec 8

/-- A byte address on the host bus: 20 bits (R80). -/
abbrev BusAddr := BitVec 20

/-- A FIFO pointer, 0..59. Sums and differences of pointers are taken mod PTR_MOD = 60 (R16, R56), which is
the arithmetic of `Fin 60`. -/
abbrev Ptr := Fin 60

/-- The binary32 word +0.0 (R14). -/
abbrev posZero : Word := 0x00000000#32

/-- The binary32 word 1.0 (R14). -/
abbrev one32 : Word := 0x3F800000#32

/-- The canonical NaN (R14, R201). -/
abbrev qnan : Word := 0x7FC00000#32

end Sys2Proof
end

