-- ==== Sys2Proof/Syntax.lean ====
section
/-! DEFINITION. The operations the block accepts (spec 30_encoding.md R110–R118), one constructor of `Instr` per row
of the opcode table; the encoded form in which the host presents one (`HostOp`); the agents that take steps besides
HOST (spec 00_scope.md R18). -/

namespace Sys2Proof

/-- A channel: L = 0, R = 1 (R9 N_CH). -/
inductive Chan where
  | L
  | R
  deriving DecidableEq, Repr, Inhabited

/-- The cut cascade a command names: CUT = 0 LowCut, CUT = 1 HighCut (R115). -/
inductive Cut where
  | low
  | high
  deriving DecidableEq, Repr

/-- The block's operations: nine command words and two bus transactions (R2, R110). -/
inductive Instr where
  /-- NOP (R133). -/
  | nop
  /-- PREPARE (R136). -/
  | prepare
  /-- RELEASE (R138). -/
  | release
  /-- PROCESS of `n` samples (R140). -/
  | process (n : BitVec 14)
  /-- SET_SLOPE of a cut cascade to ordinal `k` (R145). -/
  | setSlope (cut : Cut) (k : BitVec 2)
  /-- TICK (R148). -/
  | tick
  /-- CLR_ERR (R151). -/
  | clrErr
  /-- SET_BYP: BYPASS bit `stage` takes `v` (R154). Stages 6..15 are not well-formed (R116). -/
  | setByp (stage : BitVec 4) (v : Bool)
  /-- SET_SUBBYP: SUB_BYP bit `idx` of a cut cascade takes `v` (R157). -/
  | setSubByp (cut : Cut) (idx : BitVec 2) (v : Bool)
  /-- REG_READ at a byte address (R130). -/
  | regRead (addr : BusAddr)
  /-- REG_WRITE of `data` at a byte address with byte strobes `strb` (R131). -/
  | regWrite (addr : BusAddr) (strb : BitVec 4) (data : Word)
  deriving DecidableEq, Repr

/-- An operation as it reaches the block, in bits. Format CMD is a 32-bit command word that a full-strobe REG_WRITE
stores into CMD; format BUS is the descriptor {PWRITE, PADDR}, PSTRB and PWDATA (R110, R111). -/
inductive HostOp where
  | cmd (word : Word)
  | bus (desc : BitVec 21) (strb : BitVec 4) (data : Word)
  deriving DecidableEq, Repr

/-- A turn given to an agent other than HOST. A synchroniser's turn carries the value it would deliver, which the spec
leaves to a nondeterministic choice (R18, R252, R253). -/
inductive Agent where
  | audio
  | render
  | timer
  | syncW (c : Chan) (v : Ptr)
  | syncR (c : Chan) (v : Ptr)
  deriving DecidableEq, Repr, Inhabited

/-- An agent besides HOST, as R18 lists them. -/
inductive AgentName where
  | audio
  | render
  | timer
  | syncW (c : Chan)
  | syncR (c : Chan)
  deriving DecidableEq, Repr, Inhabited

/-- The agent a turn is given to. -/
def Agent.name : Agent → AgentName
  | .audio => .audio
  | .render => .render
  | .timer => .timer
  | .syncW c _ => .syncW c
  | .syncR c _ => .syncR c

/-- What reaches the block next: a bus operation of HOST, a turn of another agent, or the reset input (R18, R340). -/
inductive Input where
  | bus (op : HostOp)
  | turn (a : Agent)
  | reset
  deriving DecidableEq, Repr

/-- The window kinds CTRL.WIN selects: 0 Blackman–Harris, 1 Hann (R279). -/
inductive WindowKind where
  | blackmanHarris
  | hann
  deriving DecidableEq, Repr

/-- The internal RAMs of a channel that no bus address reaches and whose reset contents are unspecified (R56, R57). -/
inductive InternalRam where
  | stg (c : Chan)
  | slot (c : Chan)
  | roll (c : Chan)
  deriving DecidableEq, Repr

end Sys2Proof
end

