-- ==== Sys2Proof/Config.lean ====
section
/-! DEFINITION. What an implementation fixes (spec 00_scope.md R9): the numbered constants, and the OPEN parameters and
free values as constants without a body, of which nothing can be proved but what holds of every value. -/

namespace Sys2Proof.Config

/-- N_SUB = 4 is the width of a SUB_BYP vector; N_BIQ biquads per channel (R9). -/
abbrev nBiq : Nat := 11

/-- CAP: the FIFO capacity in frames (R9, R240). -/
abbrev cap : Nat := 30

/-- GRAY_OFFSET (R9, R248). -/
abbrev grayOffset : Nat := 2

/-- MAX_BLOCK_HW: block buffer words per channel (R9). -/
abbrev maxBlockHw : Nat := 8192

/-- PULLS_PER_TICK: frames pulled per channel and tick (R9, R275). -/
abbrev pullsPerTick : Nat := 30

/-- FTZ, OPEN: whether subnormal operands and results of the arithmetic become zero (R201 (d)); log 8. -/
opaque ftz : Bool

/-- The values behind WTAB, OPEN, for a window kind, an FFT size and an index; `Machine.wtab` makes every one finite and
not negative (R280); log 10. -/
opaque wtabRaw : WindowKind → Nat → Nat → Word

/-- The values behind FFTMAG_N, OPEN: FFT size, the N input words, the bin; `Machine.fftMag` gives it the properties R283
requires; log 11. -/
opaque fftMagRaw : Nat → List Word → Nat → Word

/-- The values behind DB20, OPEN: for the bit pattern of a positive finite binary32 word, a number that
`Machine.db20` turns into a word with the properties R285 requires; log 12. -/
opaque db20Raw : Nat → Int

/-- What a byte of bus RAM (BUF, SPEC) holds after the reset numbered `epoch` if nothing has written it, by bus byte
address: unspecified, fixed at reset (R55, R58, R63); log 4. -/
opaque busDraw : (epoch : Nat) → (addr : Nat) → Byte

/-- What a word of an internal RAM (STG, SLOT, ROLL) holds after the reset numbered `epoch` if nothing has written it
(R56, R57, R63); log 4. -/
opaque internalDraw : (epoch : Nat) → InternalRam → (index : Nat) → Word

/-- Which agent moves when no input is listed: any interleaving is allowed (R18, R20); log 1. `Machine.scheduledName`
adds the turns that fairness forces (R21). -/
opaque scheduler : (clock : Nat) → AgentName

/-- How many moments pass without an input before fairness forces the next turn: any finite number (R21: no rule bounds
the time); log 1. -/
opaque patience : (round : Nat) → Nat

/-- The value a synchroniser's turn would deliver when no input is listed (R252, R253); log 1. -/
opaque delivered : (clock : Nat) → Ptr

end Sys2Proof.Config
end

