-- ==== Sys2Proof/Machine/Binary32.lean ====
section
/-! DEFINITION. IEEE 754 binary32 arithmetic as the spec fixes it (00_scope.md R14, 20_memory.md R85,
42_filter_chain.md R200, R201): round to nearest, ties to even, one rounding per operation, canonical NaN, no flags.

Every finite binary32 value is a whole number of UNITS of 2^-149. An operation takes its operands to whole numbers,
computes the exact rational result in units, and rounds it once. -/

namespace Sys2Proof.Machine.Binary32

/-- The sign bit (R85). -/
def sign (w : Word) : Bool := w.getLsbD 31

/-- The biased exponent field, bits 30..23 (R85). -/
def expField (w : Word) : Nat := (w.extractLsb' 23 8).toNat

/-- The fraction field, bits 22..0 (R85). -/
def fracField (w : Word) : Nat := (w.extractLsb' 0 23).toNat

/-- `is_finite(v)`: the exponent field is not 0xFF (R14). -/
def isFinite (w : Word) : Bool := expField w != 0xFF

def isNaN (w : Word) : Bool := expField w == 0xFF && fracField w != 0

def isInf (w : Word) : Bool := expField w == 0xFF && fracField w == 0

def isZero (w : Word) : Bool := expField w == 0 && fracField w == 0

def isSubnormal (w : Word) : Bool := expField w == 0 && fracField w != 0

/-- The magnitude of a finite word in units of 2^-149. -/
def units (w : Word) : Nat :=
  if expField w = 0 then fracField w else (2 ^ 23 + fracField w) * 2 ^ (expField w - 1)

/-- The magnitude of a finite operand in units; under FTZ a subnormal operand is read as a zero (R201 (d)). -/
def operandUnits (ftz : Bool) (w : Word) : Nat :=
  if isSubnormal w && ftz then 0 else units w

/-- The zero of a sign. -/
def zero (neg : Bool) : Word := if neg then 0x80000000#32 else 0x00000000#32

/-- The infinity of a sign. -/
def inf (neg : Bool) : Word := if neg then 0xFF800000#32 else 0x7F800000#32

/-- `num / den` rounded to the nearest whole number, ties to even. -/
def divNearestEven (num den : Nat) : Nat :=
  let q := num / den
  let r := num % den
  if 2 * r < den then q
  else if den < 2 * r then q + 1
  else if q % 2 = 0 then q else q + 1

/-- The spacing of binary32 values, in units, at the magnitude `num / den` units: values keep 24 significant bits, and
below 2^24 units every whole number of units is a value. -/
def spacing (num den : Nat) : Nat := 2 ^ (Nat.log2 (num / den) + 1 - 24)

/-- `num / den` units rounded to the grid of binary32 values, exponent unbounded above. -/
def roundToGrid (num den : Nat) : Nat :=
  divNearestEven num (den * spacing num den) * spacing num den

/-- The word of a magnitude that lies on the grid, in units; at or above 2^277 units the magnitude is an infinity. -/
def pack (neg : Bool) (k : Nat) : Word :=
  if 277 ≤ Nat.log2 k then inf neg
  else
    let e := Nat.log2 k - 22
    let body := if k < 2 ^ 23 then k else e * 2 ^ 23 + (k / 2 ^ (e - 1) - 2 ^ 23)
    (if neg then 0x80000000#32 else 0x00000000#32) ||| BitVec.ofNat 32 body

/-- The result of an operation whose exact value is `num / den` units, with its sign: rounded once, and under FTZ a
result whose rounded value is subnormal becomes the zero of its sign (R200, R201 (d)). -/
def result (ftz neg : Bool) (num den : Nat) : Word :=
  let k := roundToGrid num den
  if (decide (k < 2 ^ 23) && k != 0) && ftz then zero neg else pack neg k

/-- `round32(k)` of a whole number (R14). -/
def ofNat (k : Nat) : Word := result false false (k * 2 ^ 149) 1

/-- The word with the other sign. -/
def neg (w : Word) : Word := w ^^^ 0x80000000#32

/-- `fadd` (R14, R201): NaN operands and +∞ + −∞ give QNAN; an exact zero sum is +0.0 unless both operands are −0.0. -/
def add (ftz : Bool) (a b : Word) : Word :=
  if isNaN a || isNaN b then qnan
  else if isInf a then (if isInf b && (sign a != sign b) then qnan else a)
  else if isInf b then b
  else
    let ua := operandUnits ftz a
    let ub := operandUnits ftz b
    if sign a = sign b then
      (if ua + ub = 0 then zero (sign a) else result ftz (sign a) (ua + ub) 1)
    else if ua = ub then zero false
    else if ub < ua then result ftz (sign a) (ua - ub) 1
    else result ftz (sign b) (ub - ua) 1

/-- `fsub` (R14, R201): the sum with the second operand's sign turned; a NaN operand gives QNAN. -/
def sub (ftz : Bool) (a b : Word) : Word :=
  if isNaN b then qnan else add ftz a (neg b)

/-- `fmul` (R14, R201): NaN operands and 0 · ∞ give QNAN; signs combine by XOR. -/
def mul (ftz : Bool) (a b : Word) : Word :=
  let s := sign a != sign b
  if isNaN a || isNaN b then qnan
  else if isInf a then (if isInf b then inf s else if operandUnits ftz b = 0 then qnan else inf s)
  else if isInf b then (if operandUnits ftz a = 0 then qnan else inf s)
  else
    let p := operandUnits ftz a * operandUnits ftz b
    if p = 0 then zero s else result ftz s p (2 ^ 149)

/-- `fdiv` (R14, R201): NaN operands, 0 / 0 and ∞ / ∞ give QNAN; a finite nonzero value over 0 is an infinity. -/
def div (ftz : Bool) (a b : Word) : Word :=
  let s := sign a != sign b
  if isNaN a || isNaN b then qnan
  else if isInf a then (if isInf b then qnan else inf s)
  else if isInf b then zero s
  else
    let ua := operandUnits ftz a
    let ub := operandUnits ftz b
    if ub = 0 then (if ua = 0 then qnan else inf s)
    else if ua = 0 then zero s
    else result ftz s (ua * 2 ^ 149) ub

/-- The order of the words that are not NaN as whole numbers: both zeros are 0, infinities lie outside the finite
values. -/
def orderKey (w : Word) : Int :=
  let m : Int := (w.extractLsb' 0 31).toNat
  if sign w then -m else m

/-- `a < b` of two values; false when one is a NaN. Subnormals compare by their values, FTZ or not (R286; log 9). -/
def lt (a b : Word) : Bool :=
  !isNaN a && !isNaN b && decide (orderKey a < orderKey b)

/-- The finite word whose order key is `k`; +0.0 for 0. -/
def ofOrderKey (k : Int) : Word :=
  if k < 0 then 0x80000000#32 ||| BitVec.ofNat 32 k.natAbs else BitVec.ofNat 32 k.natAbs

end Sys2Proof.Machine.Binary32

namespace Sys2Proof.Machine

/-- `fadd` of the block, with the block's FTZ (R14, R201 (d)). -/
def fadd (a b : Word) : Word := Binary32.add Config.ftz a b

/-- `fsub` of the block (R14). -/
def fsub (a b : Word) : Word := Binary32.sub Config.ftz a b

/-- `fmul` of the block (R14). -/
def fmul (a b : Word) : Word := Binary32.mul Config.ftz a b

/-- `fdiv` of the block (R14). -/
def fdiv (a b : Word) : Word := Binary32.div Config.ftz a b

end Sys2Proof.Machine
end

