-- ==== Sys2Proof/Machine/State.lean ====
section
/-! DEFINITION. The state of the EQ_Lite DSP block as plain data (spec 10_state.md R30–R63) and its value after reset
(R63, 70_reset_and_hazards.md R340). -/

namespace Sys2Proof.Machine

/-- A RAM as a sparse list of (address, value) pairs. `cells` is in canonical form: addresses strictly rising, and no
entry equal to what an unlisted address reads as. An unlisted address reads as `fill`; where `fill` is none nothing has
written it since reset and it holds no value of its own (R55–R58, R63). -/
structure Ram (α : Type) where
  fill : Option α
  cells : List (Nat × α)
  deriving DecidableEq, Repr

/-- Bus RAM: bytes at bus byte addresses, `cells : List Host.Cell`. -/
abbrev Memory := Ram Byte

/-- A RAM nothing has written since reset (R63 "unspecified"). -/
def Ram.unwritten {α : Type} : Ram α := ⟨none, []⟩

/-- The five stored coefficients of a biquad; a0 is 1 (R50). -/
structure Coefs where
  b0 : Word
  b1 : Word
  b2 : Word
  a1 : Word
  a2 : Word
  deriving DecidableEq, Repr

/-- The unity biquad (1.0, +0.0, +0.0, +0.0, +0.0) (R50, R211). -/
def Coefs.unity : Coefs := ⟨one32, posZero, posZero, posZero, posZero⟩

/-- The two state variables of a biquad (R54). -/
structure BiquadState where
  s1 : Word
  s2 : Word
  deriving DecidableEq, Repr

/-- Zeroed biquad state (R54, R136). -/
def BiquadState.zero : BiquadState := ⟨posZero, posZero⟩

/-- A cut cascade's shadow configuration LC_CFG or HC_CFG (R44). -/
structure CutCfg where
  slope : BitVec 2
  subByp : BitVec 4
  deriving DecidableEq, Repr

/-- What the block holds once per channel (R54, R56, R57, R46): the biquad state file, the FIFO, the rolling buffer and
the spectrum counter. -/
structure Channel where
  /-- S1, S2 by biquad index (R54). -/
  biquads : Vector BiquadState 11
  /-- The staging frame STG (R56). -/
  stg : Ram Word
  /-- The staging index SIDX (R56, R47). -/
  sidx : BitVec 14
  /-- The frame slots SLOT[s][i], at index 8192·s + i (R56). -/
  slot : Ram Word
  wptr : Ptr
  rptr : Ptr
  wview : Ptr
  rview : Ptr
  /-- Refused pushes (R46, R56). -/
  dropCnt : BitVec 16
  /-- The rolling buffer ROLL (R57). -/
  roll : Ram Word
  /-- SPEC_SEQ (R46). -/
  specSeq : Word
  deriving DecidableEq, Repr

/-- The audio engine's sequencer (R59): RUN(j, n) has processed sample indices 0..j−1 of n. -/
inductive AudioState where
  | idle
  | run (j n : Nat)
  deriving DecidableEq, Repr

/-- The render engine's sequencer (R57). -/
inductive RenderState where
  | idle
  | pull (c : Chan) (left : Nat)
  | fft (c : Chan) (left : Nat)
  deriving DecidableEq, Repr

/-- The error codes LAST_ERR can hold (R300). -/
inductive ErrCode where
  | none
  | illegal
  | engineBusy
  | notPrepared
  | length
  | badConfig
  | addr
  | align
  | ro
  | busy
  deriving DecidableEq, Repr

/-- What the block returned for the transaction that completed last (R111): PRDATA for a read, PSLVERR for both. -/
inductive Response where
  /-- No transaction has completed since reset (log 5). -/
  | none
  | read (prdata : Word) (pslverr : Bool)
  | write (pslverr : Bool)
  deriving DecidableEq, Repr

/-- The state of the block. -/
structure State where
  /-- IRQ_STATUS bits 5..0 (R37). -/
  irqStatus : BitVec 6
  /-- IRQ_ENABLE.EN (R38). -/
  irqEnable : BitVec 6
  /-- CTRL.IN_CH (R39). -/
  inCh : BitVec 2
  /-- CTRL.AN_EN (R39). -/
  anEn : Bool
  /-- CTRL.WIN (R39, R279). -/
  win : WindowKind
  /-- PARAM_CHG.PCHG (R42). -/
  pchg : Bool
  /-- SAMPLE_RATE (R40). -/
  sampleRate : Word
  /-- BLK_MAX bits 13..0 (R41). -/
  blkMax : BitVec 14
  /-- FFT_CFG.FFT_SEL (R41). -/
  fftSel : BitVec 2
  /-- FRAME_SIZE bits 13..0 (R41). -/
  frameSize : BitVec 14
  /-- The shadow BYPASS bits (R43). -/
  bypass : BitVec 6
  /-- The shadow LC_CFG (R44). -/
  lcCfg : CutCfg
  /-- The shadow HC_CFG (R44). -/
  hcCfg : CutCfg
  /-- DB_FLOOR (R48). -/
  dbFloor : Word
  /-- TICK_PERIOD (R49). -/
  tickPeriod : Word
  /-- TCNT (R57, R318). -/
  tcnt : Word
  /-- BLK_CNT (R46). -/
  blkCnt : Word
  /-- ACT_FFT_SIZE (R45). -/
  actFftSize : Word
  /-- ACT_FRAME_SIZE (R45). -/
  actFrameSize : Word
  /-- ACT_BLK_MAX (R45). -/
  actBlkMax : Word
  /-- The shadow coefficient bank SH_COEF (R50). -/
  shCoef : Vector Coefs 11
  /-- The active coefficient bank ACT_COEF (R52). -/
  actCoef : Vector Coefs 11
  /-- ACT_BYP (R53). -/
  actByp : BitVec 6
  /-- ACT_LCSUB (R53). -/
  actLcSub : BitVec 4
  /-- ACT_HCSUB (R53). -/
  actHcSub : BitVec 4
  /-- Channel 0. -/
  chL : Channel
  /-- Channel 1. -/
  chR : Channel
  /-- The block buffers BUF[0], BUF[1] at their bus byte addresses 0x10000..0x1FFFF (R55). -/
  buf : Memory
  /-- The spectrum buffers SPEC[0], SPEC[1] at their bus byte addresses 0x20000..0x27FFF (R58). -/
  spec : Memory
  /-- astate (R59). -/
  astate : AudioState
  /-- rstate (R57). -/
  rstate : RenderState
  /-- TICK_REQ (R57). -/
  tickReq : Bool
  /-- PREPARED (R60). -/
  prepared : Bool
  /-- LAST_ERR (R60). -/
  lastErr : ErrCode
  /-- The bus outputs of the last transaction (R111). -/
  resp : Response
  /-- The model's own: what reaches the block next, first entry first (log 1). -/
  inputs : List Input
  /-- The model's own: indexes the agents' own schedule (log 13). -/
  clock : Nat
  /-- The model's own: how many times the reset input was asserted; indexes the free RAM contents (log 13). -/
  epoch : Nat
  deriving DecidableEq, Repr

/-- Why a step would stop the machine. No operation of the block does: an error is recorded and the block goes on
(60_exceptions.md R302, R303, R312). -/
inductive Fault where
  /-- Raised by nobody; the type must have a constructor. Safe: `Sys2Proof.Machine.step` never answers a fault. -/
  | neverRaised
  deriving DecidableEq, Repr

/-- Why the model has no meaning for an operation. -/
inductive Refusal where
  /-- An arm of `exec` without a meaning yet. Raised by nobody: every operation has its meaning. Safe. -/
  | notModelled (mnemonic : String)
  deriving DecidableEq, Repr

/-- A channel after reset (R63). -/
def Channel.reset : Channel where
  biquads := Vector.replicate 11 BiquadState.zero
  stg := Ram.unwritten
  sidx := 0
  slot := Ram.unwritten
  wptr := 0
  rptr := 0
  wview := 0
  rview := 0
  dropCnt := 0
  roll := Ram.unwritten
  specSeq := 0

/-- The block right after hardware reset (R63, R340). The fields `resp`, `inputs`, `clock`, `epoch` are the model's
choice (logs 1, 5, 13); unspecified RAM lists nothing (log 4). -/
def State.reset : State where
  irqStatus := 0
  irqEnable := 0
  inCh := 2
  anEn := true
  win := .blackmanHarris
  pchg := false
  sampleRate := 0x473B8000#32
  blkMax := 512
  fftSel := 0
  frameSize := 512
  bypass := 0
  lcCfg := ⟨0, 0b1110⟩
  hcCfg := ⟨0, 0b1110⟩
  dbFloor := 0xC2400000#32
  tickPeriod := 0
  tcnt := 0
  blkCnt := 0
  actFftSize := 0
  actFrameSize := 0
  actBlkMax := 0
  shCoef := Vector.replicate 11 Coefs.unity
  actCoef := Vector.replicate 11 Coefs.unity
  actByp := 0
  actLcSub := 0b1110
  actHcSub := 0b1110
  chL := Channel.reset
  chR := Channel.reset
  buf := Ram.unwritten
  spec := Ram.unwritten
  astate := .idle
  rstate := .idle
  tickReq := false
  prepared := false
  lastErr := .none
  resp := .none
  inputs := []
  clock := 0
  epoch := 0

end Sys2Proof.Machine
end

