-- ==== Sys2Proof/Machine/Ops.lean ====
section
/-! DEFINITION. The named operations over the block's RAMs, channels, pointers and single bits, and the recording of
errors, which is all this block has in place of taking an exception (spec 20_memory.md, 60_exceptions.md). -/

namespace Sys2Proof.Machine

/-! ### RAM -/

section RamOps

variable {α : Type}

/-- The value listed at an address. -/
def cellAt (a : Nat) : List (Nat × α) → Option α
  | [] => none
  | (k, v) :: rest => if k = a then some v else cellAt a rest

/-- The list with the entry of an address set, addresses rising. -/
def cellsInsert (a : Nat) (v : α) : List (Nat × α) → List (Nat × α)
  | [] => [(a, v)]
  | (k, w) :: rest =>
    if a < k then (a, v) :: (k, w) :: rest
    else if a = k then (a, v) :: rest
    else (k, w) :: cellsInsert a v rest

/-- The list without the entries of an address. -/
def cellsErase (a : Nat) (cells : List (Nat × α)) : List (Nat × α) := cells.filter (fun c => decide (c.1 ≠ a))

/-- Addresses strictly rise. -/
def cellsRising : List (Nat × α) → Bool
  | [] => true
  | [_] => true
  | (a, _) :: (b, w) :: rest => decide (a < b) && cellsRising ((b, w) :: rest)

/-- What a RAM holds at an address: what is listed, else its fill; none where nothing has written the address since
reset. -/
def Ram.at (m : Ram α) (a : Nat) : Option α :=
  match cellAt a m.cells with
  | some v => some v
  | none => m.fill

/-- A read: what the RAM holds, and at an address nothing has written the free value `draw a`, the same at every read
(R55, R63; log 4). -/
def Ram.read (draw : Nat → α) (m : Ram α) (a : Nat) : α :=
  match m.at a with
  | some v => v
  | none => draw a

/-- A write. Writing what an unlisted address reads as removes the entry, so that equal memories are equal data. -/
def Ram.write [DecidableEq α] (m : Ram α) (a : Nat) (v : α) : Ram α :=
  if m.fill = some v then { m with cells := cellsErase a m.cells }
  else { m with cells := cellsInsert a v m.cells }

/-- Writes of consecutive addresses from `a` up. -/
def Ram.writeList [DecidableEq α] (m : Ram α) (a : Nat) : List α → Ram α
  | [] => m
  | v :: vs => (m.writeList (a + 1) vs).write a v

/-- A RAM every address of which has been set to one value (PREPARE's clearing of SPEC and ROLL, R136). -/
def Ram.filled (v : α) : Ram α := ⟨some v, []⟩

/-- The canonical form: addresses strictly rising, no entry equal to what an unlisted address reads as. -/
def Ram.wf [DecidableEq α] (m : Ram α) : Bool :=
  cellsRising m.cells && m.cells.all (fun c => decide (m.fill ≠ some c.2))

end RamOps

/-- The canonical form of bus RAM. -/
abbrev Memory.wf (m : Memory) : Bool := Ram.wf m

/-! ### Bus RAM in words: byte lane k of the word at `a` is the byte at `a + k` (R85) -/

/-- The four lanes of a word, lane 0 first (R85). -/
def lanes (v : Word) : List Byte :=
  [v.extractLsb' 0 8, v.extractLsb' 8 8, v.extractLsb' 16 8, v.extractLsb' 24 8]

/-- The word of four lanes (R85). -/
def ofLanes (l0 l1 l2 l3 : Byte) : Word := l3 ++ l2 ++ l1 ++ l0

/-- The word at a bus byte address. -/
def Memory.readWord (draw : Nat → Byte) (m : Memory) (a : Nat) : Word :=
  ofLanes (m.read draw a) (m.read draw (a + 1)) (m.read draw (a + 2)) (m.read draw (a + 3))

/-- The memory with the word at a bus byte address set. -/
def Memory.writeWord (m : Memory) (a : Nat) (v : Word) : Memory := m.writeList a (lanes v)

/-- The memory with consecutive words from a bus byte address set. -/
def Memory.writeWords (m : Memory) (a : Nat) (vs : List Word) : Memory := m.writeList a (vs.flatMap lanes)

/-- The number of a channel (R9). -/
def chanIndex : Chan → Nat
  | .L => 0
  | .R => 1

/-- The bus byte address of BUF[c][j] (R55, R81). -/
def bufAddr (c : Chan) (j : Nat) : Nat := 0x10000 + 0x8000 * chanIndex c + 4 * j

/-- The bus byte address of SPEC[c][k] (R58, R81). -/
def specAddr (c : Chan) (k : Nat) : Nat := 0x20000 + 0x4000 * chanIndex c + 4 * k

/-- BUF[c][j] (R55). -/
def State.bufWord (s : State) (c : Chan) (j : Nat) : Word :=
  Memory.readWord (Config.busDraw s.epoch) s.buf (bufAddr c j)

/-- SPEC[c][k] (R58). -/
def State.specWord (s : State) (c : Chan) (k : Nat) : Word :=
  Memory.readWord (Config.busDraw s.epoch) s.spec (specAddr c k)

/-- `BUF[c][j] <- v` (R55). -/
def State.setBufWord (s : State) (c : Chan) (j : Nat) (v : Word) : State :=
  { s with buf := Memory.writeWord s.buf (bufAddr c j) v }

/-- BUF[c][j..] takes consecutive words (R221). -/
def State.setBufWords (s : State) (c : Chan) (j : Nat) (vs : List Word) : State :=
  { s with buf := Memory.writeWords s.buf (bufAddr c j) vs }

/-- One byte of the bus-addressable RAM as the block holds it: BUF below 0x20000, SPEC from there (R81). -/
def State.ramByte (s : State) (a : Nat) : Byte :=
  if a < 0x20000 then Ram.read (Config.busDraw s.epoch) s.buf a else Ram.read (Config.busDraw s.epoch) s.spec a

/-! ### Channels -/

/-- The state of channel c. -/
def State.ch (s : State) : Chan → Channel
  | .L => s.chL
  | .R => s.chR

/-- The state with channel c set. -/
def State.setCh (s : State) (c : Chan) (x : Channel) : State :=
  match c with
  | .L => { s with chL := x }
  | .R => { s with chR := x }

/-- The word index of SLOT[s][i] in a channel's slot RAM (R56). -/
def slotIndex (slot i : Nat) : Nat := 8192 * slot + i

/-- STG[c][i] (R56). -/
def State.stgWord (s : State) (c : Chan) (i : Nat) : Word :=
  Ram.read (Config.internalDraw s.epoch (.stg c)) (s.ch c).stg i

/-- SLOT[c][slot][i] (R56). -/
def State.slotWord (s : State) (c : Chan) (slot i : Nat) : Word :=
  Ram.read (Config.internalDraw s.epoch (.slot c)) (s.ch c).slot (slotIndex slot i)

/-- ROLL[c][i] (R57). -/
def State.rollWord (s : State) (c : Chan) (i : Nat) : Word :=
  Ram.read (Config.internalDraw s.epoch (.roll c)) (s.ch c).roll i

/-! ### FIFO pointers (R242, R243, R244, R248) -/

/-- The slot a pointer names: p mod 30 (R241, R245). -/
def slotOf (p : Ptr) : Nat := p.val % Config.cap

/-- `occ_w`: occupancy as the producer sees it, (WPTR − RVIEW) mod 60 (R242). -/
def Channel.occW (x : Channel) : Nat := (x.wptr - x.rview).val

/-- `occ_r`: occupancy as the consumer sees it, (WVIEW − RPTR) mod 60 (R243). -/
def Channel.occR (x : Channel) : Nat := (x.wview - x.rptr).val

/-- `occ`: the true occupancy, (WPTR − RPTR) mod 60 (R244). -/
def Channel.occ (x : Channel) : Nat := (x.wptr - x.rptr).val

/-- `gray(v) = v XOR (v >> 1)` on 6 bits (R24, R248). -/
def gray (v : BitVec 6) : BitVec 6 := v ^^^ (v >>> 1)

/-- G(p): the code of a pointer on the wires that cross the clock domains (R247, R248; log 22). -/
def grayCode (p : Ptr) : BitVec 6 := gray (BitVec.ofNat 6 (p.val + Config.grayOffset))

/-- `bin(g)`: the prefix XOR of a code's bits from bit 5 down (R248). -/
def grayBin (g : BitVec 6) : BitVec 6 :=
  g ^^^ (g >>> 1) ^^^ (g >>> 2) ^^^ (g >>> 3) ^^^ (g >>> 4) ^^^ (g >>> 5)

/-- G⁻¹: the pointer of a code, bin(g) − 2; codes that are never driven have none (R248). -/
def grayDecode (g : BitVec 6) : Option Ptr :=
  let v := (grayBin g).toNat
  if h : Config.grayOffset ≤ v ∧ v - Config.grayOffset < 60 then some ⟨v - Config.grayOffset, h.2⟩ else none

/-! ### Single bits -/

/-- `x[i] <- v`. -/
def setBit {n : Nat} (x : BitVec n) (i : Nat) (v : Bool) : BitVec n :=
  if v then x ||| BitVec.twoPow n i else x &&& ~~~(BitVec.twoPow n i)

/-! ### Recording an error, in place of taking an exception (R15, R301–R304, R312) -/

/-- The events of IRQ_STATUS (R37, R311). -/
inductive IrqEvent where
  | blkDone
  | specNew
  | cmdErr
  | busErr
  | fifoDrop
  | nfFallback
  deriving DecidableEq, Repr

/-- The IRQ_STATUS bit of an event (R37). -/
def IrqEvent.bit : IrqEvent → Nat
  | .blkDone => 0
  | .specNew => 1
  | .cmdErr => 2
  | .busErr => 3
  | .fifoDrop => 4
  | .nfFallback => 5

/-- An event sets its sticky bit (R311). -/
def State.raise (s : State) (e : IrqEvent) : State := { s with irqStatus := setBit s.irqStatus e.bit true }

/-- `LAST_ERR <- code` and the event bit (R301). -/
def State.recordError (s : State) (code : ErrCode) (e : IrqEvent) : State := { s.raise e with lastErr := code }

/-- `raise CmdError(code)`: the error is recorded, the REG_WRITE to CMD completes with PSLVERR = 1, nothing else changes
(R302). -/
def State.cmdError (s : State) (code : ErrCode) : State := { s.recordError code .cmdErr with resp := .write true }

/-- `raise BusError(code)` of a REG_WRITE: recorded, PSLVERR = 1, nothing written (R303). -/
def State.writeError (s : State) (code : ErrCode) : State := { s.recordError code .busErr with resp := .write true }

/-- `raise BusError(code)` of a REG_READ: recorded, PRDATA = 0, PSLVERR = 1 (R303). -/
def State.readError (s : State) (code : ErrCode) : State := { s.recordError code .busErr with resp := .read 0 true }

/-- A write or command transaction completes without an error (R131). -/
def State.writeDone (s : State) : State := { s with resp := .write false }

/-- A read transaction completes without an error (R130). -/
def State.readDone (s : State) (v : Word) : State := { s with resp := .read v false }

end Sys2Proof.Machine
end

