-- ==== Sys2Proof/Machine/Audio.lean ====
section
/-! DEFINITION. The audio side (spec 42_filter_chain.md; 43_channel_fifo.md R241): the biquad, the chain, effective
bypass, the commit, the clearing of missing inputs, the FIFO tee, and the steps AUDIO_SAMPLE and AUDIO_DONE. -/

namespace Sys2Proof.Machine

/-! ### Biquad and chain -/

/-- The biquad step on coefficients, state and one sample (R203), in the operation order the rule shows. -/
def biquadStep (k : Coefs) (st : BiquadState) (x : Word) : BiquadState × Word :=
  let y := fadd (fmul k.b0 x) st.s1
  let s1n := fadd (fsub (fmul k.b1 x) (fmul k.a1 y)) st.s2
  let s2n := fsub (fmul k.b2 x) (fmul k.a2 y)
  (⟨s1n, s2n⟩, y)

/-- `eff_bypass(b)` on the active bypass state (R206). ACT_BYP bits: 0 ALL, 1 LC, 2 B1, 3 B2, 4 B3, 5 HC (R43, R53). -/
def bypassed (byp : BitVec 6) (lcSub hcSub : BitVec 4) (b : Fin 11) : Bool :=
  byp.getLsbD 0
    || (decide (b.val < 4) && (byp.getLsbD 1 || lcSub.getLsbD b.val))
    || (decide (b.val = 4) && byp.getLsbD 2)
    || (decide (b.val = 5) && byp.getLsbD 3)
    || (decide (b.val = 6) && byp.getLsbD 4)
    || (decide (7 ≤ b.val) && (byp.getLsbD 5 || hcSub.getLsbD (b.val - 7)))

/-- `eff_bypass(b)` (R206). -/
def State.effBypass (s : State) (b : Fin 11) : Bool := bypassed s.actByp s.actLcSub s.actHcSub b

/-- `biquad(b, c, x)`: one sample through biquad b of channel c, the state file updated (R203). -/
def biquad (s : State) (b : Fin 11) (c : Chan) (x : Word) : State × Word :=
  let r := biquadStep s.actCoef[b] (s.ch c).biquads[b] x
  (s.setCh c { s.ch c with biquads := (s.ch c).biquads.set b r.1 }, r.2)

/-- The biquads of a list in order, bypassed ones passing the sample on bit for bit with their state held (R204, R205). -/
def chainOver (c : Chan) : List (Fin 11) → State → Word → State × Word
  | [], s, v => (s, v)
  | b :: bs, s, v =>
    if s.effBypass b then chainOver c bs s v
    else chainOver c bs (biquad s b c v).1 (biquad s b c v).2

/-- The biquad indices in processing order (R51). -/
def biquadOrder : List (Fin 11) := [0, 1, 2, 3, 4, 5, 6, 7, 8, 9, 10]

/-- `chain(c, x)`: one sample through the eleven biquads of channel c (R204). -/
def chain (s : State) (c : Chan) (x : Word) : State × Word := chainOver c biquadOrder s x

/-! ### Commit -/

/-- Every coefficient of a set is finite (R210). -/
def Coefs.allFinite (k : Coefs) : Bool :=
  Binary32.isFinite k.b0 && Binary32.isFinite k.b1 && Binary32.isFinite k.b2 && Binary32.isFinite k.a1
    && Binary32.isFinite k.a2

/-- What a commit makes active for a shadow set: the set, or unity if it holds a non-finite word (R210, R211). -/
def committed (k : Coefs) : Coefs := if k.allFinite then k else Coefs.unity

/-- A bank with a function applied to every set. -/
def mapBank (f : Coefs → Coefs) (v : Vector Coefs 11) : Vector Coefs 11 :=
  #v[f v[0], f v[1], f v[2], f v[3], f v[4], f v[5], f v[6], f v[7], f v[8], f v[9], f v[10]]

/-- Some shadow set holds a non-finite word (R210). -/
def anyNonFinite (v : Vector Coefs 11) : Bool := biquadOrder.any (fun b => !(v[b]).allFinite)

/-- `commit()` (R210). -/
def commit (s : State) : State :=
  let s1 := { s with
    actCoef := mapBank committed s.shCoef
    actByp := s.bypass
    actLcSub := s.lcCfg.subByp
    actHcSub := s.hcCfg.subByp }
  if anyNonFinite s.shCoef then s1.raise .nfFallback else s1

/-! ### Blocks -/

/-- `clear_missing_inputs(N)`: the channels IN_CH..1 have words 0..N−1 of their buffer set to +0.0 (R221). -/
def clearMissingInputs (s : State) (n : Nat) : State :=
  let s1 := if s.inCh.toNat ≤ 0 then s.setBufWords .L 0 (List.replicate n posZero) else s
  if s.inCh.toNat ≤ 1 then s1.setBufWords .R 0 (List.replicate n posZero) else s1

/-- The words STG[c][0..n−1] (R241). -/
def State.stagedFrame (s : State) (c : Chan) (n : Nat) : List Word := (List.range n).map (s.stgWord c)

/-- The push of a full staging frame: accepted while `occ_w < 30`, else refused and counted; the staging index returns
to 0 either way (R241). -/
def pushFrame (s : State) (c : Chan) : State :=
  let x := s.ch c
  if x.occW < Config.cap then
    s.setCh c { x with
      slot := x.slot.writeList (slotIndex (slotOf x.wptr) 0) (s.stagedFrame c s.actFrameSize.toNat)
      wptr := x.wptr + 1
      sidx := 0 }
  else
    (s.setCh c { x with dropCnt := x.dropCnt + 1, sidx := 0 }).raise .fifoDrop

/-- `STG[c][SIDX[c]] <- y; SIDX[c] <- SIDX[c] + 1` (R241). -/
def stageSample (s : State) (c : Chan) (y : Word) : State :=
  let x := s.ch c
  s.setCh c { x with stg := x.stg.write x.sidx.toNat y, sidx := x.sidx + 1 }

/-- `fifo_tee(c, y)` (R241). -/
def fifoTee (s : State) (c : Chan) (y : Word) : State :=
  let s1 := stageSample s c y
  if (s1.ch c).sidx.toNat = s.actFrameSize.toNat then pushFrame s1 c else s1

/-- One channel's part of AUDIO_SAMPLE at sample index j (R222). -/
def sampleChannel (s : State) (c : Chan) (j : Nat) : State :=
  let r := chain s c (s.bufWord c j)
  fifoTee (r.1.setBufWord c j r.2) c r.2

/-- AUDIO_SAMPLE at sample index j of n: L, then R (R222). -/
def audioSample (s : State) (j n : Nat) : State :=
  { sampleChannel (sampleChannel s .L j) .R j with astate := .run (j + 1) n }

/-- AUDIO_DONE (R223). -/
def audioDone (s : State) : State :=
  { s with astate := .idle, blkCnt := s.blkCnt + 1 }.raise .blkDone

/-- AUDIO has an enabled step (R222, R223). -/
def State.audioEnabled (s : State) : Bool :=
  match s.astate with
  | .idle => false
  | .run j n => decide (j ≤ n)

/-- A turn of AUDIO; no step if none is enabled (R222, R223). -/
def audioTurn (s : State) : State :=
  match s.astate with
  | .idle => s
  | .run j n => if j < n then audioSample s j n else if j = n then audioDone s else s

end Sys2Proof.Machine
end

