-- ==== Sys2Proof/Machine/OpenFns.lean ====
section
/-! DEFINITION. The three OPEN functions of the FFT engine with the properties the spec requires of every choice (spec
44_fft_engine.md R280, R283, R285). Each is made from an uninterpreted constant of `Config` by a map that leaves a
choice with the required properties as it is and gives every other one those properties: so the functions range over
exactly the choices the spec admits. -/

namespace Sys2Proof.Machine

/-- A word a window table may hold: finite and not negative (R280; −0.0 is not negative, log 10). -/
def windowWordOk (w : Word) : Bool := Binary32.isFinite w && (!Binary32.sign w || Binary32.isZero w)

/-- WTAB(kind, N)[i] (R280). -/
def wtab (kind : WindowKind) (n i : Nat) : Word :=
  if windowWordOk (Config.wtabRaw kind n i) then Config.wtabRaw kind n i else posZero

/-- A word a magnitude may be: +0.0, positive finite, +∞ or QNAN (R283 (b)). -/
def magnitudeOk (w : Word) : Bool := (!Binary32.sign w && !Binary32.isNaN w) || w == qnan

/-- FFTMAG_N of the words `xs`, bin `k` (R283): N words ±0.0 give +0.0, and every output is a magnitude. -/
def fftMag (n : Nat) (xs : List Word) (k : Nat) : Word :=
  if xs.all Binary32.isZero then posZero
  else if magnitudeOk (Config.fftMagRaw n xs k) then Config.fftMagRaw n xs k else qnan

/-- The largest value of a function on 0..n. -/
@[irreducible] def runningMax (g : Nat → Int) : Nat → Int
  | 0 => g 0
  | n + 1 => max (runningMax g n) (g (n + 1))

/-- The order key of the largest finite binary32 value. -/
abbrev maxFiniteKey : Int := 0x7F7FFFFF

/-- A number taken into a range. -/
def clampKey (lo hi x : Int) : Int := max lo (min hi x)

/-- The order key of DB20 at the positive finite word with bit pattern `b` (R285): negative below 1.0, zero at 1.0,
positive above, finite, and never falling as `b` rises. -/
def db20Key (b : Nat) : Int :=
  if b < 0x3F800000 then runningMax (fun i => clampKey (-maxFiniteKey) (-1) (Config.db20Raw i)) b
  else if b = 0x3F800000 then 0
  else runningMax (fun i => clampKey 1 maxFiniteKey (Config.db20Raw (0x3F800001 + i))) (b - 0x3F800001)

/-- DB20 of a positive finite word (R285). -/
def db20 (m : Word) : Word := Binary32.ofOrderKey (db20Key m.toNat)

/-- `dbfloor(m)` of a normalised magnitude, with the floor of DB_FLOOR (R286). -/
def dbfloor (floor m : Word) : Word :=
  if Binary32.lt posZero m then
    (if Binary32.lt (db20 m) floor then floor else db20 m)
  else floor

/-- A magnitude made finite and normalised by N/2 (R284, R287): a non-finite one counts as +0.0. -/
def normMagnitude (n : Nat) (m : Word) : Word :=
  fdiv (if Binary32.isFinite m then m else posZero) (Binary32.ofNat (n / 2))

end Sys2Proof.Machine
end

