-- ==== Sys2Proof/Machine/Render.lean ====
section
/-! DEFINITION. The render side (spec 44_fft_engine.md; 43_channel_fifo.md R245, R252, R253; 60_exceptions.md R318): the
steps R_START, R_PULL, R_FFT, R_NEXT, TIMER_FIRE, SYNC_W, SYNC_R. -/

namespace Sys2Proof.Machine

/-- R_START is enabled (R271). -/
def State.startEnabled (s : State) : Bool := s.tickReq && s.prepared && s.anEn

/-- R_START (R271). -/
def renderStart (s : State) : State := { s with tickReq := false, rstate := .pull .L Config.pullsPerTick }

/-- The FIFO is not empty for the consumer: WVIEW ≠ RPTR (R243, R246). -/
def Channel.pullable (x : Channel) : Bool := decide (x.wview ≠ x.rptr)

/-- The frame `fifo_pull` copies out: SLOT[c][RPTR mod 30][0..F−1] (R245). -/
def State.pulledFrame (s : State) (c : Chan) : List Word :=
  (List.range s.actFrameSize.toNat).map (s.slotWord c (slotOf (s.ch c).rptr))

/-- `fifo_pull(c)` (R245): none is EMPTY; otherwise the frame and the state with RPTR advanced. -/
def fifoPull (s : State) (c : Chan) : Option (State × List Word) :=
  if (s.ch c).pullable then some (s.setCh c { s.ch c with rptr := (s.ch c).rptr + 1 }, s.pulledFrame c) else none

/-- The rolling buffer's words after a shift left by F = ACT_FRAME_SIZE: the old words F..N−1, all read before any is
written (R272; log 16). -/
def State.shiftedRoll (s : State) (c : Chan) : List Word :=
  (List.range (s.actFftSize.toNat - s.actFrameSize.toNat)).map
    (fun i => s.rollWord c (i + s.actFrameSize.toNat))

/-- The rolling buffer shifted and a frame appended at its end (R272). -/
def slideRoll (s : State) (c : Chan) (frame : List Word) : State :=
  s.setCh c { s.ch c with roll := (s.ch c).roll.writeList 0 (s.shiftedRoll c ++ frame) }

/-- R_PULL (R272). With the FIFO empty for the consumer it is not enabled and nothing happens. -/
def renderPull (s : State) (c : Chan) (left : Nat) : State :=
  match fifoPull s c with
  | some (s1, frame) => { slideRoll s1 c frame with rstate := .fft c (left - 1) }
  | none => s

/-- The windowed working copy xw[0..N−1] (R276, R278). -/
def State.windowed (s : State) (c : Chan) : List Word :=
  (List.range s.actFftSize.toNat).map
    (fun i => fmul (s.rollWord c i) (wtab s.win s.actFftSize.toNat i))

/-- The spectrum spec[0..N/2−1] that R_FFT publishes (R276). -/
def State.spectrum (s : State) (c : Chan) : List Word :=
  (List.range (s.actFftSize.toNat / 2)).map
    (fun k => dbfloor s.dbFloor (normMagnitude s.actFftSize.toNat (fftMag s.actFftSize.toNat (s.windowed c) k)))

/-- `publish(c, spec)` (R288). -/
def publish (s : State) (c : Chan) (bins : List Word) : State :=
  ({ s with spec := Memory.writeWords s.spec (specAddr c 0) bins }.setCh c
    { s.ch c with specSeq := (s.ch c).specSeq + 1 }).raise .specNew

/-- R_FFT (R276). -/
def renderFft (s : State) (c : Chan) (left : Nat) : State :=
  { publish s c (s.spectrum c) with rstate := .pull c left }

/-- R_NEXT (R274). -/
def renderNext (s : State) (c : Chan) : State :=
  match c with
  | .L => { s with rstate := .pull .R Config.pullsPerTick }
  | .R => { s with rstate := .idle }

/-- RENDER has an enabled step (R271, R272, R274, R276). -/
def State.renderEnabled (s : State) : Bool :=
  match s.rstate with
  | .idle => s.startEnabled
  | .pull _ _ => true
  | .fft _ _ => true

/-- A turn of RENDER: the one enabled step, or none (R271, R272, R274, R276). -/
def renderTurn (s : State) : State :=
  match s.rstate with
  | .idle => if s.startEnabled then renderStart s else s
  | .pull c left => if 0 < left ∧ (s.ch c).pullable then renderPull s c left else renderNext s c
  | .fft c left => renderFft s c left

/-- TIMER_FIRE is enabled (R318). -/
def State.timerEnabled (s : State) : Bool := decide (s.tickPeriod ≠ 0)

/-- TIMER_FIRE (R318). -/
def timerFire (s : State) : State :=
  if s.tickPeriod ≤ s.tcnt + 1 then
    { s with tcnt := 0, tickReq := s.tickReq || (s.prepared && s.anEn) }
  else { s with tcnt := s.tcnt + 1 }

/-- A turn of TIMER (R318). -/
def timerTurn (s : State) : State := if s.timerEnabled then timerFire s else s

/-- A synchroniser may deliver `v`: 0 < (v − view) mod 60 ≤ (pointer − view) mod 60 (R252, R253). -/
def viewMayBe (view pointer v : Ptr) : Bool := decide (0 < (v - view).val ∧ (v - view).val ≤ (pointer - view).val)

/-- A turn of SYNC_W[c] that would deliver `v` (R252); no step if the spec does not allow that choice. -/
def syncWTurn (s : State) (c : Chan) (v : Ptr) : State :=
  if viewMayBe (s.ch c).wview (s.ch c).wptr v then s.setCh c { s.ch c with wview := v } else s

/-- A turn of SYNC_R[c] that would deliver `v` (R253); no step if the spec does not allow that choice. -/
def syncRTurn (s : State) (c : Chan) (v : Ptr) : State :=
  if viewMayBe (s.ch c).rview (s.ch c).rptr v then s.setCh c { s.ch c with rview := v } else s

end Sys2Proof.Machine
end

