-- ==== Sys2Proof/Machine/Agents.lean ====
section
/-! DEFINITION. The agents besides HOST, and the reset input (spec 00_scope.md R18–R22; 70_reset_and_hazards.md R340). -/

namespace Sys2Proof.Machine

/-- An agent has an enabled step: the enabling conditions of R222, R223, R252, R253, R271, R272, R274, R276, R318. -/
def State.enabled (s : State) : Agent → Bool
  | .audio => s.audioEnabled
  | .render => s.renderEnabled
  | .timer => s.timerEnabled
  | .syncW c v => viewMayBe (s.ch c).wview (s.ch c).wptr v
  | .syncR c v => viewMayBe (s.ch c).rview (s.ch c).rptr v

/-- An agent has an enabled step, whatever value it would deliver (R21): a synchroniser's step is enabled while its view
differs from its pointer (R252, R253). -/
def State.agentEnabled (s : State) : AgentName → Bool
  | .audio => s.audioEnabled
  | .render => s.renderEnabled
  | .timer => s.timerEnabled
  | .syncW c => decide ((s.ch c).wview ≠ (s.ch c).wptr)
  | .syncR c => decide ((s.ch c).rview ≠ (s.ch c).rptr)

/-! ### The agents' own schedule, where no input is listed: weakly fair, and free otherwise (R18, R20, R21; log 1) -/

/-- The agents besides HOST (R18). -/
def agentNames : List AgentName := [.audio, .render, .timer, .syncW .L, .syncW .R, .syncR .L, .syncR .R]

/-- How many turns fairness has forced before a moment, and how many moments are left free before the next. -/
def fairRound : (clock : Nat) → Nat × Nat
  | 0 => (0, Config.patience 0)
  | t + 1 =>
    match fairRound t with
    | (r, 0) => (r + 1, Config.patience (r + 1))
    | (r, w + 1) => (r, w)

/-- The agent that moves at a moment: in a forced turn the agents one after the other, else any (R20, R21). -/
def scheduledName (clock : Nat) : AgentName :=
  match fairRound clock with
  | (r, 0) => agentNames.getD (r % 7) .audio
  | (_, _ + 1) => Config.scheduler clock

/-- The value a synchroniser delivers: the free one where the rules allow it, else the pointer (R252, R253). -/
def delivery (view pointer v : Ptr) : Ptr := if viewMayBe view pointer v then v else pointer

/-- The turn that is taken where no input is listed. -/
def State.scheduled (s : State) : Agent :=
  match scheduledName s.clock with
  | .audio => .audio
  | .render => .render
  | .timer => .timer
  | .syncW c => .syncW c (delivery (s.ch c).wview (s.ch c).wptr (Config.delivered s.clock))
  | .syncR c => .syncR c (delivery (s.ch c).rview (s.ch c).rptr (Config.delivered s.clock))

/-- An agent's turn: its enabled step, or no change if it has none (R18; log 21). -/
def turn (a : Agent) (s : State) : State :=
  match a with
  | .audio => audioTurn s
  | .render => renderTurn s
  | .timer => timerTurn s
  | .syncW c v => syncWTurn s c v
  | .syncR c v => syncRTurn s c v

/-- The reset input asserted and released: every piece of state takes its reset value, unspecified RAM new free values;
what reaches the block next stays to come (R340, R63; log 14). -/
def hardwareReset (s : State) : State :=
  { State.reset with inputs := s.inputs, clock := s.clock, epoch := s.epoch + 1 }

end Sys2Proof.Machine
end

