-- ==== Sys2Proof/WellFormed.lean ====
section
/-! DEFINITION. Which terms of `Instr` are operations of the block (spec 30_encoding.md R113, R116, R118). The field
widths are in the types; the one check left is SET_BYP's stage id. -/

namespace Sys2Proof

/-- SET_BYP names a stage 0..5; 6..15 are illegal (R116, R118). Every other term is an operation of the block. -/
def Instr.wellFormed : Instr → Bool
  | .setByp stage _ => decide (stage.toNat ≤ 5)
  | .nop => true
  | .prepare => true
  | .release => true
  | .process _ => true
  | .setSlope _ _ => true
  | .tick => true
  | .clrErr => true
  | .setSubByp _ _ _ => true
  | .regRead _ => true
  | .regWrite _ _ _ => true

end Sys2Proof
end

