-- ==== Sys2Proof/Decode.lean ====
section
/-! DEFINITION. Decoding and encoding (spec 30_encoding.md R110–R118). A command word is looked up in the opcode map of
R114 by mask and match; a bus descriptor by its top bit. The encoder writes the bit patterns of R117. -/

namespace Sys2Proof

/-- Why a command word is no command (R118); each makes the REG_WRITE that carries it raise CmdError ILLEGAL. -/
inductive DecodeReject where
  /-- OP = 0x9..0xF. -/
  | reservedOpcode
  /-- A reserved bit of the opcode's layout is 1. -/
  | reservedBit
  /-- SET_BYP with STAGE = 6..15. -/
  | illegalStage
  deriving DecidableEq, Repr

/-- The field of `len` bits of `v` from bit `lo` up (R11). -/
def bits (v : Word) (lo len : Nat) : BitVec len := v.extractLsb' lo len

/-- CUT: 0 = LowCut, 1 = HighCut (R115). -/
def cutOf (b : Bool) : Cut := if b then .high else .low

/-- The bit that encodes a cut (R115). -/
def cutBit : Cut → Bool
  | .low => false
  | .high => true

/-- A row of the opcode map: match, mask, and the operation its fields make (R114, R115). -/
structure CommandRow where
  value : Word
  mask : Word
  build : Word → Instr

/-- The opcode map of command words (R114), fields by R115. -/
def commandRows : List CommandRow :=
  [ ⟨0x00000000#32, 0xFFFFFFFF#32, fun _ => .nop⟩,
    ⟨0x10000000#32, 0xFFFFFFFF#32, fun _ => .prepare⟩,
    ⟨0x20000000#32, 0xFFFFFFFF#32, fun _ => .release⟩,
    ⟨0x30000000#32, 0xFFFFC000#32, fun v => .process (bits v 0 14)⟩,
    ⟨0x40000000#32, 0xFFFFFEFC#32, fun v => .setSlope (cutOf (v.getLsbD 8)) (bits v 0 2)⟩,
    ⟨0x50000000#32, 0xFFFFFFFF#32, fun _ => .tick⟩,
    ⟨0x60000000#32, 0xFFFFFFFF#32, fun _ => .clrErr⟩,
    ⟨0x70000000#32, 0xFFFFFFE0#32, fun v => .setByp (bits v 0 4) (v.getLsbD 4)⟩,
    ⟨0x80000000#32, 0xFFFFFEEC#32, fun v => .setSubByp (cutOf (v.getLsbD 8)) (bits v 0 2) (v.getLsbD 4)⟩ ]

/-- Whether a word matches a row: (v AND mask) = match (R113). -/
def CommandRow.hits (r : CommandRow) (v : Word) : Bool := v &&& r.mask == r.value

/-- Command decoding (R113): the row that matches, then SET_BYP's stage check; a word of no row is rejected by name. -/
def decodeCommand (v : Word) : Except DecodeReject Instr :=
  match commandRows.find? (fun r => r.hits v) with
  | some r =>
    let i := r.build v
    if i.wellFormed then .ok i else .error .illegalStage
  | none =>
    if (bits v 28 4).toNat ≤ 8 then .error .reservedBit else .error .reservedOpcode

/-- Descriptor decoding (R111, R114): bit 20 is PWRITE, bits 19..0 are PADDR; every descriptor decodes. -/
def decodeBus (desc : BitVec 21) (strb : BitVec 4) (data : Word) : Instr :=
  if desc.getLsbD 20 then .regWrite (desc.extractLsb' 0 20) strb data else .regRead (desc.extractLsb' 0 20)

/-- Decoding of an operation in bits (R110). -/
def decode : HostOp → Except DecodeReject Instr
  | .cmd v => decodeCommand v
  | .bus desc strb data => .ok (decodeBus desc strb data)

/-- The byte address of CMD (R32). -/
abbrev cmdAddr : BusAddr := 0x00008#20

/-- The operation the block performs for an operation in bits. A word that is no command is still a full-strobe
REG_WRITE to CMD, which raises CmdError ILLEGAL (R113, R118, R132). -/
def fetched (op : HostOp) : Instr :=
  match op with
  | .cmd v =>
    match decodeCommand v with
    | .ok i => i
    | .error _ => .regWrite cmdAddr 0xF#4 v
  | .bus desc strb data => decodeBus desc strb data

/-- The bits of an operation (R110, R111, R117). A read drives no strobes and no data: they are 0 here. -/
def encode (i : Instr) : HostOp :=
  match i with
  | .regRead addr => .bus (0#1 ++ addr) 0#4 0#32
  | .regWrite addr strb data => .bus (1#1 ++ addr) strb data
  | .nop => .cmd (0#4 ++ 0#28)
  | .prepare => .cmd (1#4 ++ 0#28)
  | .release => .cmd (2#4 ++ 0#28)
  | .process n => .cmd (3#4 ++ 0#14 ++ n)
  | .setSlope cut k => .cmd (4#4 ++ 0#19 ++ BitVec.ofBool (cutBit cut) ++ 0#6 ++ k)
  | .tick => .cmd (5#4 ++ 0#28)
  | .clrErr => .cmd (6#4 ++ 0#28)
  | .setByp stage v => .cmd (7#4 ++ 0#23 ++ BitVec.ofBool v ++ stage)
  | .setSubByp cut idx v =>
    .cmd (8#4 ++ 0#19 ++ BitVec.ofBool (cutBit cut) ++ 0#3 ++ BitVec.ofBool v ++ 0#2 ++ idx)

/-- The command word of an operation; none for the two bus transactions (R110). -/
def commandWord (i : Instr) : Option Word :=
  match encode i with
  | .cmd w => some w
  | .bus _ _ _ => none

/-- A row's word laid out as the block receives it. A 32-bit row is a command word. Any other row is a bus transaction:
bits 20..0 the descriptor, bits 27..24 PSTRB, bits 63..32 PWDATA, bits that `w` does not hold being 0 (R110, R111; log 3). -/
def hostOpOfTable (nbits w : Nat) : HostOp :=
  if nbits = 32 then .cmd (BitVec.ofNat 32 w)
  else .bus (BitVec.ofNat 21 w) (BitVec.ofNat 4 (w >>> 24)) (BitVec.ofNat 32 (w >>> 32))

/-- The operation the decoder reads from a word of the opcode table (the host's numbering of bits); none where the
decoder rejects it. -/
def decodeTableWord (nbits w : Nat) : Option Instr :=
  match decode (hostOpOfTable nbits w) with
  | .ok i => some i
  | .error _ => none

end Sys2Proof
end

