-- ==== Sys2Proof/Machine/Flags.lean ====
section
/-! DEFINITION. The status flags and the words that show them (spec 10_state.md R36, R39, R44, R47, R53, R61;
60_exceptions.md R300, R310). The block has no arithmetic condition codes (R61). -/

namespace Sys2Proof.Machine

/-- A flag at a bit of a word. -/
def flagAt (b : Bool) (i : Nat) : Word := (BitVec.ofBool b).zeroExtend 32 <<< i

/-- A field at a place of a word. -/
def fieldAt {n : Nat} (x : BitVec n) (lo : Nat) : Word := x.zeroExtend 32 <<< lo

/-- BUSY_A: astate ≠ IDLE (R36). -/
def State.busyA (s : State) : Bool := decide (s.astate ≠ .idle)

/-- BUSY_R: rstate ≠ IDLE (R36). -/
def State.busyR (s : State) : Bool := decide (s.rstate ≠ .idle)

/-- The interrupt line: the OR over IRQ_STATUS AND IRQ_ENABLE (R310). -/
def State.irqLine (s : State) : Bool := decide (s.irqStatus &&& s.irqEnable ≠ 0)

/-- The number of an error code (R300). -/
def ErrCode.number : ErrCode → BitVec 4
  | .none => 0
  | .illegal => 1
  | .engineBusy => 2
  | .notPrepared => 3
  | .length => 4
  | .badConfig => 5
  | .addr => 6
  | .align => 7
  | .ro => 8
  | .busy => 9

/-- STATUS (R36). -/
def State.statusWord (s : State) : Word :=
  flagAt s.busyA 0 ||| flagAt s.busyR 1 ||| flagAt s.prepared 2 ||| flagAt s.tickReq 3 |||
    fieldAt s.lastErr.number 8 ||| flagAt s.irqLine 16

/-- The bit that encodes a window kind (R39, R279). -/
def winBit : WindowKind → Bool
  | .blackmanHarris => false
  | .hann => true

/-- The window kind of a bit (R39, R279). -/
def winOf (b : Bool) : WindowKind := if b then .hann else .blackmanHarris

/-- CTRL (R39). -/
def State.ctrlWord (s : State) : Word := fieldAt s.inCh 0 ||| flagAt s.anEn 4 ||| flagAt (winBit s.win) 5

/-- LC_CFG or HC_CFG (R44). -/
def CutCfg.word (c : CutCfg) : Word := fieldAt c.slope 0 ||| fieldAt c.subByp 4

/-- ACT_BYPASS (R53). -/
def State.actBypassWord (s : State) : Word :=
  fieldAt s.actByp 0 ||| fieldAt s.actLcSub 8 ||| fieldAt s.actHcSub 12

/-- A pointer as a 6-bit value (R11). -/
def ptrBits (p : Ptr) : BitVec 6 := BitVec.ofNat 6 p.val

/-- FIFO_c_PTR (R47). -/
def Channel.ptrWord (x : Channel) : Word :=
  fieldAt (ptrBits x.wptr) 0 ||| fieldAt (ptrBits x.rptr) 8 ||| fieldAt (ptrBits x.wview) 16 |||
    fieldAt (ptrBits x.rview) 24

/-- FIFO_c_STG (R47). -/
def Channel.stgRegWord (x : Channel) : Word := fieldAt x.sidx 0

/-- FIFO_c_DROP (R47). -/
def Channel.dropWord (x : Channel) : Word := fieldAt x.dropCnt 0

end Sys2Proof.Machine
end

