-- ==== Sys2Proof/Machine/Commands.lean ====
section
/-! DEFINITION. The nine commands (spec 40_commands.md R132–R157). Each is the whole REG_WRITE to CMD that carries the
command word: its effect and the transaction's PSLVERR (R132). -/

namespace Sys2Proof.Machine

/-- NOP (R133). -/
def execNop (s : State) : Host.Outcome State Fault Refusal := .next s.writeDone

/-- Either engine is active (R136, R138). -/
def State.engineActive (s : State) : Bool := s.busyA || s.busyR

/-- N of FFT_SEL: 2048 << sel (R136). -/
def fftSizeOf (sel : BitVec 2) : Nat := 2048 <<< sel.toNat

/-- The prepare-time configuration is legal: FFT_SEL ≠ 3, FRAME_SIZE in 1..N, BLK_MAX in 1..8192 (R136). -/
def State.configLegal (s : State) : Bool :=
  decide (s.fftSel ≠ 3)
    && decide (0 < s.frameSize.toNat) && decide (s.frameSize.toNat ≤ fftSizeOf s.fftSel)
    && decide (0 < s.blkMax.toNat) && decide (s.blkMax.toNat ≤ Config.maxBlockHw)

/-- What PREPARE leaves of a channel: biquad state and ROLL +0.0, pointers, views, SIDX, DROP_CNT and SPEC_SEQ 0; STG
and SLOT are kept (R136). -/
def Channel.prepared (x : Channel) : Channel :=
  { x with
    biquads := Vector.replicate 11 BiquadState.zero
    wptr := 0
    rptr := 0
    wview := 0
    rview := 0
    sidx := 0
    dropCnt := 0
    specSeq := 0
    roll := Ram.filled posZero }

/-- The effect of a PREPARE whose checks pass (R136). ROLL holds N words (R57), so clearing them clears the RAM, and
SPEC's 4096 words per channel are the whole spectrum RAM (log 6). -/
def prepareEffect (s : State) : State :=
  { s with
    actFftSize := BitVec.ofNat 32 (fftSizeOf s.fftSel)
    actFrameSize := s.frameSize.zeroExtend 32
    actBlkMax := s.blkMax.zeroExtend 32
    chL := s.chL.prepared
    chR := s.chR.prepared
    spec := Ram.filled 0
    blkCnt := 0
    tickReq := false
    tcnt := 0
    prepared := true }

/-- PREPARE (R136): ENGINE_BUSY, then BAD_CONFIG, then the effect. -/
def execPrepare (s : State) : Host.Outcome State Fault Refusal :=
  if s.engineActive then .next (s.cmdError .engineBusy)
  else if !s.configLegal then .next (s.cmdError .badConfig)
  else .next (prepareEffect s).writeDone

/-- RELEASE (R138). -/
def execRelease (s : State) : Host.Outcome State Fault Refusal :=
  if s.engineActive then .next (s.cmdError .engineBusy)
  else .next { s with prepared := false, tickReq := false }.writeDone

/-- The effect of a PROCESS of n samples whose checks pass: missing inputs cleared, the commit, AUDIO started (R140). -/
def processEffect (s : State) (n : Nat) : State :=
  { commit (clearMissingInputs s n) with astate := .run 0 n }

/-- PROCESS (R140): NOT_PREPARED, then ENGINE_BUSY, then LENGTH, then the effect. -/
def execProcess (n : BitVec 14) (s : State) : Host.Outcome State Fault Refusal :=
  if !s.prepared then .next (s.cmdError .notPrepared)
  else if s.busyA then .next (s.cmdError .engineBusy)
  else if s.actBlkMax.toNat < n.toNat then .next (s.cmdError .length)
  else .next (processEffect s n.toNat).writeDone

/-- LC_CFG or HC_CFG (R145, R157). -/
def State.cutCfg (s : State) : Cut → CutCfg
  | .low => s.lcCfg
  | .high => s.hcCfg

/-- LC_CFG or HC_CFG set, and PCHG set (R42, R145, R157). -/
def State.setCutCfg (s : State) (cut : Cut) (x : CutCfg) : State :=
  match cut with
  | .low => { s with lcCfg := x, pchg := true }
  | .high => { s with hcCfg := x, pchg := true }

/-- Sub-bypasses k, k−1, …, 0 set false in that order (R145). -/
def clearDown : Nat → BitVec 4 → BitVec 4
  | 0, x => setBit x 0 false
  | k + 1, x => clearDown k (setBit x (k + 1) false)

/-- The sub-bypass vector of slope ordinal k: all four set true, then k..0 set false (R145). -/
def slopeSubByp (k : BitVec 2) : BitVec 4 := clearDown k.toNat 0b1111#4

/-- SET_SLOPE (R145). -/
def execSetSlope (cut : Cut) (k : BitVec 2) (s : State) : Host.Outcome State Fault Refusal :=
  .next (s.setCutCfg cut ⟨k, slopeSubByp k⟩).writeDone

/-- TICK (R148): NOT_PREPARED, then a request while AN_EN = 1. -/
def execTick (s : State) : Host.Outcome State Fault Refusal :=
  if !s.prepared then .next (s.cmdError .notPrepared)
  else .next { s with tickReq := s.tickReq || s.anEn }.writeDone

/-- CLR_ERR (R151). -/
def execClrErr (s : State) : Host.Outcome State Fault Refusal :=
  .next { s with lastErr := .none }.writeDone

/-- SET_BYP (R154): ILLEGAL for a stage above 5, then the shadow BYPASS bit and PCHG. -/
def execSetByp (stage : BitVec 4) (v : Bool) (s : State) : Host.Outcome State Fault Refusal :=
  if 5 < stage.toNat then .next (s.cmdError .illegal)
  else .next { s with bypass := setBit s.bypass stage.toNat v, pchg := true }.writeDone

/-- SET_SUBBYP (R157). -/
def execSetSubByp (cut : Cut) (idx : BitVec 2) (v : Bool) (s : State) : Host.Outcome State Fault Refusal :=
  let x := s.cutCfg cut
  .next (s.setCutCfg cut { x with subByp := setBit x.subByp idx.toNat v }).writeDone

end Sys2Proof.Machine
end

