-- ==== Sys2Proof/Machine/Operands.lean ====
section
/-! DEFINITION. What a bus address names: the register map (spec 10_state.md R32), the address map (20_memory.md R81),
the access types, and reading and writing what an address names (40_commands.md R130, R131). -/

namespace Sys2Proof.Machine

/-- The control and status registers (R32). -/
inductive CtrlReg where
  | id
  | version
  | cmd
  | status
  | irqStatus
  | irqEnable
  | ctrl
  | paramChg
  | sampleRate
  | blkMax
  | fftCfg
  | frameSize
  | bypass
  | lcCfg
  | hcCfg
  | dbFloor
  | tickPeriod
  | blkCnt
  | specSeq (c : Chan)
  | fifoPtr (c : Chan)
  | fifoStg (c : Chan)
  | fifoDrop (c : Chan)
  | actFftSize
  | actFrameSize
  | actBlkMax
  | actBypass
  deriving DecidableEq, Repr

/-- The registers in the order of their offsets 0x000, 0x004, …, 0x074 (R32). -/
def ctrlRegs : List CtrlReg :=
  [.id, .version, .cmd, .status, .irqStatus, .irqEnable, .ctrl, .paramChg, .sampleRate, .blkMax, .fftCfg, .frameSize,
   .bypass, .lcCfg, .hcCfg, .dbFloor, .tickPeriod, .blkCnt, .specSeq .L, .specSeq .R,
   .fifoPtr .L, .fifoStg .L, .fifoDrop .L, .fifoPtr .R, .fifoStg .R, .fifoDrop .R,
   .actFftSize, .actFrameSize, .actBlkMax, .actBypass]

/-- How a location may be accessed (R32): read-only, write-only, read-write, write 1 to clear, read clears. -/
inductive Access where
  | ro
  | wo
  | rw
  | w1c
  | rc
  deriving DecidableEq, Repr

/-- The access type of a register (R32). -/
def CtrlReg.access : CtrlReg → Access
  | .cmd => .wo
  | .irqStatus => .w1c
  | .paramChg => .rc
  | .irqEnable => .rw
  | .ctrl => .rw
  | .sampleRate => .rw
  | .blkMax => .rw
  | .fftCfg => .rw
  | .frameSize => .rw
  | .bypass => .rw
  | .lcCfg => .rw
  | .hcCfg => .rw
  | .dbFloor => .rw
  | .tickPeriod => .rw
  | .id => .ro
  | .version => .ro
  | .status => .ro
  | .blkCnt => .ro
  | .specSeq _ => .ro
  | .fifoPtr _ => .ro
  | .fifoStg _ => .ro
  | .fifoDrop _ => .ro
  | .actFftSize => .ro
  | .actFrameSize => .ro
  | .actBlkMax => .ro
  | .actBypass => .ro

/-- What a word address names (R81). -/
inductive Region where
  | ctrl (r : CtrlReg)
  | shCoef (b : Fin 11) (k : Fin 5)
  | actCoef (b : Fin 11) (k : Fin 5)
  /-- S1 (`second` false) or S2 of biquad `b`, channel `c`. -/
  | stateView (b : Fin 11) (c : Chan) (second : Bool)
  | buf (c : Chan) (j : Nat)
  | spec (c : Chan) (k : Nat)
  | unmapped
  deriving DecidableEq, Repr

/-- The channel of a bit. -/
def chanOf (right : Bool) : Chan := if right then .R else .L

/-- The address map (R81, R50, R52, R54, R55, R58), for a word-aligned address. -/
def region (a : BusAddr) : Region :=
  let n := a.toNat
  if n < 0x78 then
    (match ctrlRegs[n / 4]? with
     | some r => .ctrl r
     | none => .unmapped)
  else if 0x100 ≤ n ∧ n < 0x1DC then .shCoef (Fin.ofNat 11 ((n - 0x100) / 0x14)) (Fin.ofNat 5 ((n - 0x100) % 0x14 / 4))
  else if 0x200 ≤ n ∧ n < 0x2DC then .actCoef (Fin.ofNat 11 ((n - 0x200) / 0x14)) (Fin.ofNat 5 ((n - 0x200) % 0x14 / 4))
  else if 0x300 ≤ n ∧ n < 0x3B0 then
    .stateView (Fin.ofNat 11 ((n - 0x300) / 0x10)) (chanOf (a.getLsbD 3)) (a.getLsbD 2)
  else if 0x10000 ≤ n ∧ n < 0x18000 then .buf .L ((n - 0x10000) / 4)
  else if 0x18000 ≤ n ∧ n < 0x20000 then .buf .R ((n - 0x18000) / 4)
  else if 0x20000 ≤ n ∧ n < 0x24000 then .spec .L ((n - 0x20000) / 4)
  else if 0x24000 ≤ n ∧ n < 0x28000 then .spec .R ((n - 0x24000) / 4)
  else .unmapped

/-- An address is word-aligned: addr[1:0] = 0b00 (R83). -/
def aligned (a : BusAddr) : Bool := a.extractLsb' 0 2 == 0#2

/-- The locations that refuse access while BUSY_A = 1 (R87). -/
def Region.busyRefused : Region → Bool
  | .stateView _ _ _ => true
  | .buf _ _ => true
  | .ctrl _ => false
  | .shCoef _ _ => false
  | .actCoef _ _ => false
  | .spec _ _ => false
  | .unmapped => false

/-- The locations a write to which is a BusError RO: RO and RC (R131). -/
def Region.writeRefused : Region → Bool
  | .ctrl r => r.access == .ro || r.access == .rc
  | .shCoef _ _ => false
  | .actCoef _ _ => true
  | .stateView _ _ _ => true
  | .buf _ _ => false
  | .spec _ _ => true
  | .unmapped => false

/-- Coefficient k of a set: 0 = b0, 1 = b1, 2 = b2, 3 = a1, 4 = a2 (R50). -/
def Coefs.get (x : Coefs) (k : Fin 5) : Word :=
  match k with
  | 0 => x.b0
  | 1 => x.b1
  | 2 => x.b2
  | 3 => x.a1
  | 4 => x.a2

/-- The set with coefficient k set (R50). -/
def Coefs.set (x : Coefs) (k : Fin 5) (v : Word) : Coefs :=
  match k with
  | 0 => { x with b0 := v }
  | 1 => { x with b1 := v }
  | 2 => { x with b2 := v }
  | 3 => { x with a1 := v }
  | 4 => { x with a2 := v }

/-- The value of a register (R33–R53); CMD reads 0 (R35). -/
def State.readReg (s : State) : CtrlReg → Word
  | .id => 0x45514C31#32
  | .version => 0x00070000#32
  | .cmd => 0
  | .status => s.statusWord
  | .irqStatus => fieldAt s.irqStatus 0
  | .irqEnable => fieldAt s.irqEnable 0
  | .ctrl => s.ctrlWord
  | .paramChg => flagAt s.pchg 0
  | .sampleRate => s.sampleRate
  | .blkMax => fieldAt s.blkMax 0
  | .fftCfg => fieldAt s.fftSel 0
  | .frameSize => fieldAt s.frameSize 0
  | .bypass => fieldAt s.bypass 0
  | .lcCfg => s.lcCfg.word
  | .hcCfg => s.hcCfg.word
  | .dbFloor => s.dbFloor
  | .tickPeriod => s.tickPeriod
  | .blkCnt => s.blkCnt
  | .specSeq c => (s.ch c).specSeq
  | .fifoPtr c => (s.ch c).ptrWord
  | .fifoStg c => (s.ch c).stgRegWord
  | .fifoDrop c => (s.ch c).dropWord
  | .actFftSize => s.actFftSize
  | .actFrameSize => s.actFrameSize
  | .actBlkMax => s.actBlkMax
  | .actBypass => s.actBypassWord

/-- The word a location holds (R130). -/
def State.readRegion (s : State) : Region → Word
  | .ctrl r => s.readReg r
  | .shCoef b k => s.shCoef[b].get k
  | .actCoef b k => s.actCoef[b].get k
  | .stateView b c second => if second then (s.ch c).biquads[b].s2 else (s.ch c).biquads[b].s1
  | .buf c j => s.bufWord c j
  | .spec c k => s.specWord c k
  | .unmapped => 0

/-- The field of `len` bits of write data from bit `lo` (R11). -/
def dataField (v : Word) (lo len : Nat) : BitVec len := v.extractLsb' lo len

/-- A write of a register that holds data (R37–R49, R131). CMD is not written: a command is executed instead, and the
registers a write is refused for keep their values. -/
def State.writeReg (s : State) (r : CtrlReg) (v : Word) : State :=
  match r with
  | .irqStatus => { s with irqStatus := s.irqStatus &&& ~~~(dataField v 0 6) }
  | .irqEnable => { s with irqEnable := dataField v 0 6 }
  | .ctrl =>
    { s with
      inCh := if dataField v 0 2 = 3 then 2 else dataField v 0 2
      anEn := v.getLsbD 4
      win := winOf (v.getLsbD 5) }
  | .sampleRate => { s with sampleRate := v }
  | .blkMax => { s with blkMax := dataField v 0 14 }
  | .fftCfg => { s with fftSel := dataField v 0 2 }
  | .frameSize => { s with frameSize := dataField v 0 14 }
  | .bypass => { s with bypass := dataField v 0 6, pchg := true }
  | .lcCfg => { s with lcCfg := ⟨dataField v 0 2, dataField v 4 4⟩, pchg := true }
  | .hcCfg => { s with hcCfg := ⟨dataField v 0 2, dataField v 4 4⟩, pchg := true }
  | .dbFloor => if Binary32.isFinite v then { s with dbFloor := v } else s
  | .tickPeriod => { s with tickPeriod := v, tcnt := 0 }
  | .id => s
  | .version => s
  | .cmd => s
  | .status => s
  | .paramChg => s
  | .blkCnt => s
  | .specSeq _ => s
  | .fifoPtr _ => s
  | .fifoStg _ => s
  | .fifoDrop _ => s
  | .actFftSize => s
  | .actFrameSize => s
  | .actBlkMax => s
  | .actBypass => s

/-- A write of a location that takes data (R131). -/
def State.writeRegion (s : State) (r : Region) (v : Word) : State :=
  match r with
  | .ctrl r => s.writeReg r v
  | .shCoef b k => { s with shCoef := s.shCoef.set b (s.shCoef[b].set k v), pchg := true }
  | .buf c j => s.setBufWord c j v
  | .actCoef _ _ => s
  | .stateView _ _ _ => s
  | .spec _ _ => s
  | .unmapped => s

/-! ### The address symbols of host programs (R120) -/

/-- The offset of a register (R32). -/
def ctrlAddr (r : CtrlReg) : BusAddr := BitVec.ofNat 20 (4 * ctrlRegs.idxOf r)

/-- SH(b, k) (R50, R120). -/
def shAddr (b : Fin 11) (k : Fin 5) : BusAddr := BitVec.ofNat 20 (0x100 + 0x14 * b.val + 4 * k.val)

/-- ACT(b, k) (R52, R120). -/
def actAddr (b : Fin 11) (k : Fin 5) : BusAddr := BitVec.ofNat 20 (0x200 + 0x14 * b.val + 4 * k.val)

/-- ST(b, c, j) (R54, R120). -/
def stAddr (b : Fin 11) (c : Chan) (second : Bool) : BusAddr :=
  BitVec.ofNat 20 (0x300 + 0x10 * b.val + 8 * chanIndex c + 4 * second.toNat)

/-- BUF_L + 4·j or BUF_R + 4·j (R55, R120). -/
def bufBusAddr (c : Chan) (j : Nat) : BusAddr := BitVec.ofNat 20 (bufAddr c j)

/-- SPEC_L + 4·k or SPEC_R + 4·k (R58, R120). -/
def specBusAddr (c : Chan) (k : Nat) : BusAddr := BitVec.ofNat 20 (specAddr c k)

/-- `rd addr` (R120). -/
def rd (a : BusAddr) : HostOp := .bus (0#1 ++ a) 0#4 0#32

/-- `wrs addr, data, strb` (R120). -/
def wrs (a : BusAddr) (v : Word) (strb : BitVec 4) : HostOp := .bus (1#1 ++ a) strb v

/-- `wr addr, data` (R120). -/
def wr (a : BusAddr) (v : Word) : HostOp := wrs a v 0xF#4

end Sys2Proof.Machine
end

