-- ==== Sys2Proof/Machine/BusTransactions.lean ====
section
/-! DEFINITION. The two bus transactions (spec 40_commands.md R130, R131; 60_exceptions.md R306) and the execution of a
command word that a REG_WRITE stores into CMD (R132). -/

namespace Sys2Proof.Machine

/-- Executing a command word (R113, R132): the command it decodes to, or CmdError ILLEGAL for a word that is none. -/
def executeCommandWord (v : Word) (s : State) : Host.Outcome State Fault Refusal :=
  match decodeCommand v with
  | .error _ => .next (s.cmdError .illegal)
  | .ok .nop => execNop s
  | .ok .prepare => execPrepare s
  | .ok .release => execRelease s
  | .ok (.process n) => execProcess n s
  | .ok (.setSlope cut k) => execSetSlope cut k s
  | .ok .tick => execTick s
  | .ok .clrErr => execClrErr s
  | .ok (.setByp stage w) => execSetByp stage w s
  | .ok (.setSubByp cut idx w) => execSetSubByp cut idx w s
  | .ok (.regRead _) => .next (s.cmdError .illegal)
  | .ok (.regWrite _ _ _) => .next (s.cmdError .illegal)

/-- The error a REG_READ raises, by the order ALIGN, ADDR, BUSY (R130, R306). -/
def readFailure (s : State) (a : BusAddr) : Option ErrCode :=
  if !aligned a then some .align
  else if region a = .unmapped then some .addr
  else if (region a).busyRefused && s.busyA then some .busy
  else none

/-- The error a REG_WRITE raises before any effect, by the order ALIGN, ADDR, RO, BUSY (R131, R306). -/
def writeFailure (s : State) (a : BusAddr) (strb : BitVec 4) : Option ErrCode :=
  if !aligned a || strb ≠ 0xF#4 then some .align
  else if region a = .unmapped then some .addr
  else if (region a).writeRefused then some .ro
  else if (region a).busyRefused && s.busyA then some .busy
  else none

/-- The side effect of a completed read: PARAM_CHG is cleared by its read (R42, R86). -/
def readSideEffect (s : State) (r : Region) : State :=
  if r = .ctrl .paramChg then { s with pchg := false } else s

/-- REG_READ (R130). -/
def execRegRead (a : BusAddr) (s : State) : Host.Outcome State Fault Refusal :=
  match readFailure s a with
  | some code => .next (s.readError code)
  | none => .next ((readSideEffect s (region a)).readDone (s.readRegion (region a)))

/-- REG_WRITE (R131): a failure is recorded; a write of CMD executes a command word; any other write stores. -/
def execRegWrite (a : BusAddr) (strb : BitVec 4) (v : Word) (s : State) : Host.Outcome State Fault Refusal :=
  match writeFailure s a strb with
  | some code => .next (s.writeError code)
  | none =>
    if region a = .ctrl .cmd then executeCommandWord v s
    else .next (s.writeRegion (region a) v).writeDone

end Sys2Proof.Machine
end

