-- ==== Sys2Proof/Machine/Dispatch.lean ====
section
/-! DEFINITION. One arm per operation of the opcode table, each a direct call of its meaning. -/

namespace Sys2Proof.Machine

def exec (i : Instr) (s : State) : Host.Outcome State Fault Refusal :=
  match i with
  | .nop => Sys2Proof.Machine.execNop s
  | .prepare => Sys2Proof.Machine.execPrepare s
  | .release => Sys2Proof.Machine.execRelease s
  | .process n => Sys2Proof.Machine.execProcess n s
  | .setSlope cut k => Sys2Proof.Machine.execSetSlope cut k s
  | .tick => Sys2Proof.Machine.execTick s
  | .clrErr => Sys2Proof.Machine.execClrErr s
  | .setByp stage v => Sys2Proof.Machine.execSetByp stage v s
  | .setSubByp cut idx v => Sys2Proof.Machine.execSetSubByp cut idx v s
  | .regRead addr => Sys2Proof.Machine.execRegRead addr s
  | .regWrite addr strb data => Sys2Proof.Machine.execRegWrite addr strb data s

end Sys2Proof.Machine
end

