-- ==== Sys2Proof/Machine/Step.lean ====
section
/-! DEFINITION. One step of the block: the next input is taken, and the agent it names takes one atomic step (spec
00_scope.md R17, R18, R20; log 1). -/

namespace Sys2Proof.Machine

/-- One step. A bus operation is decoded and executed; another agent takes its turn; the reset input resets. With no
input listed, the agents' own schedule says whose turn it is. -/
def step (s : State) : Host.Outcome State Fault Refusal :=
  match s.inputs with
  | .bus op :: rest => exec (fetched op) { s with inputs := rest }
  | .turn a :: rest => .next (turn a { s with inputs := rest })
  | .reset :: rest => .next (hardwareReset { s with inputs := rest })
  | [] => .next (turn s.scheduled { s with clock := s.clock + 1 })

/-- The state in which HOST presents the operation of a table word next, before whatever was to come (log 2). -/
def State.withFetchWord (s : State) (nbits w : Nat) : State :=
  { s with inputs := .bus (hostOpOfTable nbits w) :: s.inputs }

end Sys2Proof.Machine
end

