-- ==== Sys2Proof/Machine/Runs.lean ====
section
/-! DEFINITION. Runs without an end, and weak fairness (spec 00_scope.md R18, R20, R21; 43_channel_fifo.md R252, R253). -/

namespace Sys2Proof.Machine

/-- A run without an end: at every moment one input from outside reaches the block, or none and the agents' own schedule
says whose turn it is; the state at the next moment is the step's. Every interleaving of the agents' steps with any
transactions of HOST and any resets is one (R18, R20; log 1). -/
structure Run where
  state : Nat → State
  input : Nat → Option Input
  advances : ∀ n, step { state n with inputs := (input n).toList } = .next (state (n + 1))

/-- The turn that is taken at a moment of a run, if an agent besides HOST is given one. -/
def Run.turnAt (r : Run) (n : Nat) : Option Agent :=
  match r.input n with
  | some (.turn a) => some a
  | some (.bus _) => none
  | some .reset => none
  | none => some (r.state n).scheduled

/-- An agent takes an enabled step at a moment of a run. -/
def Run.stepsAt (r : Run) (x : AgentName) (n : Nat) : Prop :=
  ∃ a, r.turnAt n = some a ∧ a.name = x ∧ (r.state n).enabled a = true

/-- Weak fairness: an agent whose step is enabled forever is eventually scheduled (R21). -/
def Run.WeaklyFair (r : Run) : Prop :=
  ∀ (x : AgentName) (n : Nat), (∀ m, n ≤ m → (r.state m).agentEnabled x = true) → ∃ m, n ≤ m ∧ r.stepsAt x m

end Sys2Proof.Machine
end

