-- ==== Sys2Proof/Safety.lean ====
section
/-! DEFINITION. What claims about the block speak of: a step that goes on, quiescence (spec 00_scope.md R22), and the
properties that the spec states of every reachable state, correct rounding, and the two sides of the block. -/

namespace Sys2Proof.Machine

/-- An outcome is a next state: no operation of the block stops it (60_exceptions.md R302–R304, R312). -/
def GoesOn (o : Host.Outcome State Fault Refusal) : Prop := ∃ t, o = .next t

/-! ### Correct rounding (00_scope.md R14; 42_filter_chain.md R200, R201), in units of 2^-149 -/

/-- The value an arithmetic operation reads from a finite word: under FTZ a subnormal is a zero (R201 (d)). -/
def Binary32.valueRead (w : Word) : ℚ :=
  (if Binary32.sign w then -1 else 1)
    * (if Config.ftz && Binary32.isSubnormal w then 0 else (Binary32.units w : ℚ))

/-- A magnitude of binary32's precision: at most 24 significant bits, any exponent from that of the units up. -/
def Binary32.OnGrid (k : Nat) : Prop := ∃ m e : Nat, m < 2 ^ 24 ∧ k = m * 2 ^ e

/-- `k` is the magnitude of binary32's precision nearest to `r`; of two equally near ones it is the one whose last
significant bit is 0: an even multiple of their distance (R14, R200). -/
def Binary32.NearestEven (r : ℚ) (k : Nat) : Prop :=
  Binary32.OnGrid k ∧ ∀ k', Binary32.OnGrid k' →
    |r - k| ≤ |r - k'| ∧ (k' ≠ k → |r - k| = |r - k'| → 2 * ((k : ℤ) - k') ∣ (k : ℤ))

/-- `w` is the result whose exact magnitude is `r`, with its sign, rounded once: an infinity from 2^128 = 2^277 units up,
a zero under FTZ where the rounded value is subnormal, else the finite word of the rounded value (R200, R201 (c), (d)). -/
def Binary32.RoundsTo (neg : Bool) (r : ℚ) (w : Word) : Prop :=
  ∃ k, Binary32.NearestEven r k
    ∧ (2 ^ 277 ≤ k → w = if neg then 0xFF800000#32 else 0x7F800000#32)
    ∧ (Config.ftz = true → 0 < k → k < 2 ^ 23 → w = if neg then 0x80000000#32 else 0x00000000#32)
    ∧ (k < 2 ^ 277 → (Config.ftz = false ∨ k = 0 ∨ 2 ^ 23 ≤ k) →
        Binary32.isFinite w = true ∧ Binary32.sign w = neg ∧ Binary32.units w = k)

/-! ### The two sides of the block (44_fft_engine.md R292) -/

/-- A channel with the state that RENDER and TIMER neither read nor write taken from another. -/
def Channel.withAudioSide (x y : Channel) : Channel :=
  { x with biquads := y.biquads, stg := y.stg, sidx := y.sidx, wptr := y.wptr, dropCnt := y.dropCnt }

/-- A state with all that RENDER and TIMER neither read nor write taken from another: BUF, the coefficient banks, the
bypass state, the biquad state, STG, SIDX, WPTR, DROP_CNT (R292). -/
def State.withAudioSide (s u : State) : State :=
  { s with
    buf := u.buf
    shCoef := u.shCoef
    actCoef := u.actCoef
    bypass := u.bypass
    lcCfg := u.lcCfg
    hcCfg := u.hcCfg
    actByp := u.actByp
    actLcSub := u.actLcSub
    actHcSub := u.actHcSub
    chL := s.chL.withAudioSide u.chL
    chR := s.chR.withAudioSide u.chR }

/-- A channel with the state that AUDIO does not read taken from another. -/
def Channel.withRenderSide (x y : Channel) : Channel := { x with roll := y.roll, rptr := y.rptr }

/-- A state with all that AUDIO does not read taken from another: ROLL, SPEC, RPTR (R292). -/
def State.withRenderSide (s u : State) : State :=
  { s with spec := u.spec, chL := s.chL.withRenderSide u.chL, chR := s.chR.withRenderSide u.chR }

/-! ### Parameter writes (10_state.md R42) -/

/-- A SET_* command that succeeds (R145, R154, R157). -/
def setsParameter : Instr → Bool
  | .setSlope _ _ => true
  | .setSubByp _ _ _ => true
  | .setByp stage _ => decide (stage.toNat ≤ 5)
  | .nop => false
  | .prepare => false
  | .release => false
  | .process _ => false
  | .tick => false
  | .clrErr => false
  | .regRead _ => false
  | .regWrite _ _ _ => false

/-- A REG_WRITE that succeeds on BYPASS, LC_CFG, HC_CFG or the shadow coefficient bank, or that carries to CMD the word
of a SET_* command that succeeds (R42, R131, R132). -/
def regWriteWritesParameter (a : BusAddr) (strb : BitVec 4) (v : Word) : Prop :=
  strb = 0xF#4
    ∧ (a = 0x030#20 ∨ a = 0x034#20 ∨ a = 0x038#20
      ∨ (a.toNat % 4 = 0 ∧ 0x100 ≤ a.toNat ∧ a.toNat < 0x1DC)
      ∨ (a = 0x008#20 ∧ ∃ i, decodeCommand v = .ok i ∧ setsParameter i = true))

/-- A parameter write: what sets PCHG, whether or not the value changes (R42). -/
def WritesParameter (i : Instr) : Prop :=
  setsParameter i = true ∨ ∃ a strb v, i = .regWrite a strb v ∧ regWriteWritesParameter a strb v

/-! ### Quiescence and the invariants -/

/-- HOST has a further transaction to issue. -/
def State.hostPending (s : State) : Bool :=
  s.inputs.any (fun i => match i with
    | .bus _ => true
    | .turn _ => false
    | .reset => false)

/-- Every view of a channel's FIFO equals its pointer (R22). -/
def Channel.viewsCurrent (x : Channel) : Bool := decide (x.wview = x.wptr) && decide (x.rview = x.rptr)

/-- The end of a run (R22): nothing to issue, both engines idle, no tick requested, every view current. -/
def State.runOver (s : State) : Bool :=
  !s.hostPending && !s.busyA && !s.busyR && !s.tickReq && s.chL.viewsCurrent && s.chR.viewsCurrent

/-- Every RAM of a channel is in canonical form. -/
def Channel.ramsWf (x : Channel) : Prop := x.stg.wf = true ∧ x.slot.wf = true ∧ x.roll.wf = true

/-- Every RAM of the block is in canonical form (log 6). -/
def State.MemoryCanonical (s : State) : Prop :=
  Memory.wf s.buf = true ∧ Memory.wf s.spec = true ∧ s.chL.ramsWf ∧ s.chR.ramsWf

/-- The occupancy bounds of one FIFO: occ_r ≤ occ ≤ occ_w ≤ 30 (R244). -/
def Channel.occupancyBounded (x : Channel) : Prop := x.occR ≤ x.occ ∧ x.occ ≤ x.occW ∧ x.occW ≤ Config.cap

/-- The occupancy bounds of both FIFOs (R244). -/
def State.FifosBounded (s : State) : Prop := s.chL.occupancyBounded ∧ s.chR.occupancyBounded

/-- The register values the spec rules out: CTRL.IN_CH = 3 (R39), a non-finite DB_FLOOR (R48), a non-finite active
coefficient (R210, R211), a timer count at or past the period of a running timer (R318). -/
def State.RegistersLegal (s : State) : Prop :=
  s.inCh ≠ 3 ∧ Binary32.isFinite s.dbFloor = true ∧ (∀ b : Fin 11, (s.actCoef[b]).allFinite = true)
    ∧ (s.tickPeriod ≠ 0 → s.tcnt < s.tickPeriod)

/-- ACT_FFT_SIZE, ACT_FRAME_SIZE and ACT_BLK_MAX are values a PREPARE can set (R45, R136). -/
def State.ActiveConfigLegal (s : State) : Prop :=
  (s.actFftSize = 2048 ∨ s.actFftSize = 4096 ∨ s.actFftSize = 8192)
    ∧ 0 < s.actFrameSize.toNat ∧ s.actFrameSize.toNat ≤ s.actFftSize.toNat
    ∧ 0 < s.actBlkMax.toNat ∧ s.actBlkMax.toNat ≤ Config.maxBlockHw

/-- The sequencers' values (R57, R59): RUN(j, n) with j ≤ n ≤ ACT_BLK_MAX, PULL with at most 30 left, FFT with fewer. -/
def State.SequencersInRange (s : State) : Prop :=
  (match s.astate with
   | .idle => True
   | .run j n => j ≤ n ∧ n ≤ s.actBlkMax.toNat)
  ∧ (match s.rstate with
     | .idle => True
     | .pull _ left => left ≤ Config.pullsPerTick
     | .fft _ left => left < Config.pullsPerTick)

/-- What PREPARED = 0 rules out, and what PREPARED = 1 guarantees: an active engine or a pending request needs a
prepared block, and a prepared block has a legal configuration and staging indices below the frame size (R56, R60). -/
def State.PreparationConsistent (s : State) : Prop :=
  (s.prepared = false → s.astate = .idle ∧ s.rstate = .idle ∧ s.tickReq = false)
    ∧ (s.prepared = true → s.ActiveConfigLegal
        ∧ s.chL.sidx.toNat < s.actFrameSize.toNat ∧ s.chR.sidx.toNat < s.actFrameSize.toNat)

/-- The control invariant: sequencers in range and preparation consistent. -/
def State.ControlLegal (s : State) : Prop := s.SequencersInRange ∧ s.PreparationConsistent

end Sys2Proof.Machine
end

