-- ==== Sys2Proof/Certificates/Slice0/Obligations.lean ====
section
/-! DEFINITION. The statements for the provers. Where a statement gives the next state as an update of the state before,
every field it does not name is unchanged, RAM included. -/

open Sys2Proof Sys2Proof.Machine

/-! ### Encoding (30_encoding.md) -/

/-- R111, R112, R115, R117: decoding the encoded form of a well-formed operation gives it back. -/
def Obligations.DecodeEncodeRoundTrip : Prop :=
  ∀ i : Instr, i.wellFormed = true → decode (encode i) = .ok i

/-- R112, R114: a command word decodes to at most one operation, every bit of the word counts, and what it decodes to is
well-formed. -/
def Obligations.DecodedCommandHasOneWord : Prop :=
  ∀ (v : Word) (i : Instr), decodeCommand v = .ok i → i.wellFormed = true ∧ commandWord i = some v

/-- R113: a word written to CMD that matches no row, or matches SET_BYP's with STAGE above 5, raises ILLEGAL; the word of
a well-formed command executes that command. -/
def Obligations.CommandWordExecution : Prop :=
  (∀ (v : Word) (s : State),
    ((∀ row ∈ [(0x00000000#32, 0xFFFFFFFF#32), (0x10000000#32, 0xFFFFFFFF#32), (0x20000000#32, 0xFFFFFFFF#32),
               (0x30000000#32, 0xFFFFC000#32), (0x40000000#32, 0xFFFFFEFC#32), (0x50000000#32, 0xFFFFFFFF#32),
               (0x60000000#32, 0xFFFFFFFF#32), (0x70000000#32, 0xFFFFFFE0#32), (0x80000000#32, 0xFFFFFEEC#32)],
        v &&& row.2 ≠ row.1)
      ∨ (v &&& 0xFFFFFFE0#32 = 0x70000000#32 ∧ 5 < (v.extractLsb' 0 4).toNat)) →
    exec (.regWrite 0x00008#20 0xF#4 v) s
      = .next { s with lastErr := .illegal, irqStatus := s.irqStatus ||| 0b000100#6, resp := .write true })
  ∧ (∀ (i : Instr) (w : Word) (s : State), i.wellFormed = true → commandWord i = some w →
      exec (.regWrite 0x00008#20 0xF#4 w) s = exec i s)

/-- R117: some words written out bit by bit decode to the operations they stand for. -/
def Obligations.SpecWordsDecode : Prop :=
  decodeTableWord 32 0b00110000000000000010001100101000 = some (.process 9000)
  ∧ decodeTableWord 32 0b01000000000000000000000100000011 = some (.setSlope .high 3)
  ∧ decodeTableWord 32 0b01110000000000000000000000010011 = some (.setByp 3 true)
  ∧ decodeTableWord 32 0b10000000000000000000000100000011 = some (.setSubByp .high 3 false)
  ∧ decodeTableWord 32 0b00110000000000000100000000000000 = none
  ∧ decodeTableWord 24 0b000010000000000000100 = some (.regRead 0x10004)

/-- R89, R110, R132, with the model's own choices of log 1 (DESIGN CHOICE: what reaches the block next stands first in
the list of inputs) and log 3 (DESIGN CHOICE: how an operation is presented): when HOST presents an operation, the step
takes it from the inputs and is the execution of what it decodes to; a command word that decodes to nothing is the
REG_WRITE to CMD that carries it. -/
def Obligations.StepRunsPresentedOperation : Prop :=
  ∀ (s : State) (op : HostOp) (rest : List Input), s.inputs = .bus op :: rest →
    (∀ i, decode op = .ok i → step s = exec i { s with inputs := rest })
    ∧ (∀ v e, op = .cmd v → decodeCommand v = .error e →
        step s = exec (.regWrite 0x00008#20 0xF#4 v) { s with inputs := rest })

/-- R304, R312, by the model's own deduction of log 15 (DEDUCED), and of log 21 (DESIGN CHOICE) for a turn of an agent
that has no enabled step: no operation and no step of any agent stops the block. -/
def Obligations.EveryStepGoesOn : Prop :=
  (∀ (i : Instr) (s : State), GoesOn (exec i s)) ∧ (∀ s : State, GoesOn (step s))

/-! ### Reset (10_state.md R63, 70_reset_and_hazards.md R341) -/

/-- R32, R63, R340: what every register of the map, the coefficient banks and the state view read after reset; and the
reset input gives every state those values. The last clause's form is the model's own: the reset input is one step, what
reaches the block next stays to come, and the RAM contents are those of a new reset (log 14, DEDUCED); the counters clock
and epoch (log 13) and no bus output before the first transaction (log 5) are DESIGN CHOICEs. -/
def Obligations.ResetValues : Prop :=
  ctrlRegs.map (fun r => State.reset.readRegion (.ctrl r))
    = [0x45514C31, 0x00070000, 0, 0, 0, 0, 0x00000012, 0, 0x473B8000, 0x00000200, 0, 0x00000200, 0, 0x000000E0,
       0x000000E0, 0xC2400000, 0, 0, 0, 0, 0, 0, 0, 0, 0, 0, 0, 0, 0, 0x0000EE00]
  ∧ (∀ b : Fin 11,
      State.reset.shCoef[b] = ⟨0x3F800000, 0, 0, 0, 0⟩ ∧ State.reset.actCoef[b] = ⟨0x3F800000, 0, 0, 0, 0⟩
      ∧ State.reset.chL.biquads[b] = ⟨0, 0⟩ ∧ State.reset.chR.biquads[b] = ⟨0, 0⟩)
  ∧ State.reset.astate = .idle ∧ State.reset.rstate = .idle ∧ State.reset.tcnt = 0
  ∧ (∀ (s : State) (rest : List Input), s.inputs = .reset :: rest →
      step s = .next { State.reset with inputs := rest, clock := s.clock, epoch := s.epoch + 1 })

/-! ### Commands (40_commands.md) -/

/-- R133, R151: NOP changes nothing and CLR_ERR sets LAST_ERR to 0 only, the event bits staying; both answer
PSLVERR = 0. -/
def Obligations.NopAndClrErrAnswer : Prop :=
  ∀ s : State,
    exec .nop s = .next { s with resp := .write false }
    ∧ exec .clrErr s = .next { s with lastErr := .none, resp := .write false }

/-- R136: a PREPARE with both engines idle and a legal configuration re-initialises what the rule lists and keeps what it
lists as not changed. -/
def Obligations.PrepareInitialises : Prop :=
  ∀ s : State, s.astate = .idle → s.rstate = .idle → s.fftSel ≠ 3 →
    0 < s.frameSize.toNat → s.frameSize.toNat ≤ 2048 * 2 ^ s.fftSel.toNat →
    0 < s.blkMax.toNat → s.blkMax.toNat ≤ 8192 →
    ∃ t, exec .prepare s = .next t
      ∧ t.resp = .write false
      ∧ t.actFftSize.toNat = 2048 * 2 ^ s.fftSel.toNat
      ∧ t.actFrameSize.toNat = s.frameSize.toNat ∧ t.actBlkMax.toNat = s.blkMax.toNat
      ∧ (∀ c : Chan,
          (∀ b : Fin 11, (t.ch c).biquads[b] = ⟨0, 0⟩)
          ∧ (t.ch c).wptr = 0 ∧ (t.ch c).rptr = 0 ∧ (t.ch c).wview = 0 ∧ (t.ch c).rview = 0
          ∧ (t.ch c).sidx = 0 ∧ (t.ch c).dropCnt = 0 ∧ (t.ch c).specSeq = 0
          ∧ (∀ i < t.actFftSize.toNat, t.rollWord c i = 0)
          ∧ (∀ k < 4096, t.specWord c k = 0)
          ∧ (t.ch c).stg = (s.ch c).stg ∧ (t.ch c).slot = (s.ch c).slot)
      ∧ t.blkCnt = 0 ∧ t.tickReq = false ∧ t.tcnt = 0 ∧ t.prepared = true
      ∧ t = { s with
          resp := t.resp, actFftSize := t.actFftSize, actFrameSize := t.actFrameSize, actBlkMax := t.actBlkMax
          chL := t.chL, chR := t.chR, spec := t.spec, blkCnt := 0, tickReq := false, tcnt := 0, prepared := true }
      ∧ (∀ a, a < 0x20000 → t.ramByte a = s.ramByte a)

/-- R136, R302, R305: PREPARE with an engine active raises ENGINE_BUSY; with both idle and an illegal configuration,
BAD_CONFIG; nothing else changes. -/
def Obligations.PrepareErrors : Prop :=
  ∀ s : State,
    ((s.astate ≠ .idle ∨ s.rstate ≠ .idle) →
      exec .prepare s
        = .next { s with lastErr := .engineBusy, irqStatus := s.irqStatus ||| 0b000100#6, resp := .write true })
    ∧ (s.astate = .idle → s.rstate = .idle →
        (s.fftSel = 3 ∨ s.frameSize = 0 ∨ 2048 * 2 ^ s.fftSel.toNat < s.frameSize.toNat ∨ s.blkMax = 0
          ∨ 8192 < s.blkMax.toNat) →
        exec .prepare s
          = .next { s with lastErr := .badConfig, irqStatus := s.irqStatus ||| 0b000100#6, resp := .write true })

/-- R138: RELEASE with both engines idle clears PREPARED and TICK_REQ only; with one active it raises ENGINE_BUSY. -/
def Obligations.ReleaseClearsPrepared : Prop :=
  ∀ s : State,
    (s.astate = .idle → s.rstate = .idle →
      exec .release s = .next { s with prepared := false, tickReq := false, resp := .write false })
    ∧ ((s.astate ≠ .idle ∨ s.rstate ≠ .idle) →
        exec .release s
          = .next { s with lastErr := .engineBusy, irqStatus := s.irqStatus ||| 0b000100#6, resp := .write true })

/-- R140, R210, R211, R212, R221: a PROCESS whose checks pass clears the missing inputs, commits the shadow set, sets
NF_FALLBACK exactly when a set was replaced, and starts AUDIO; nothing else changes. -/
def Obligations.ProcessCommitsAndStarts : Prop :=
  ∀ (n : BitVec 14) (s : State), s.prepared = true → s.astate = .idle → n.toNat ≤ s.actBlkMax.toNat →
    ∃ t, exec (.process n) s = .next t
      ∧ t.astate = .run 0 n.toNat ∧ t.resp = .write false
      ∧ (∀ b : Fin 11, t.actCoef[b] =
          if (∀ k : Fin 5, Binary32.isFinite ((s.shCoef[b]).get k) = true) then s.shCoef[b]
          else ⟨0x3F800000, 0, 0, 0, 0⟩)
      ∧ t.actByp = s.bypass ∧ t.actLcSub = s.lcCfg.subByp ∧ t.actHcSub = s.hcCfg.subByp
      ∧ t.irqStatus =
          (if ∃ b : Fin 11, ∃ k : Fin 5, Binary32.isFinite ((s.shCoef[b]).get k) = false
           then s.irqStatus ||| 0b100000#6 else s.irqStatus)
      ∧ (∀ (c : Chan) (j : Nat), j < 8192 →
          t.bufWord c j = if s.inCh.toNat ≤ chanIndex c ∧ j < n.toNat then 0 else s.bufWord c j)
      ∧ (∀ a, (∀ (c : Chan) (j : Nat), s.inCh.toNat ≤ chanIndex c → j < n.toNat →
          a < bufAddr c j ∨ bufAddr c j + 4 ≤ a) → t.ramByte a = s.ramByte a)
      ∧ t = { s with
          astate := t.astate, resp := t.resp, actCoef := t.actCoef, actByp := t.actByp, actLcSub := t.actLcSub
          actHcSub := t.actHcSub, irqStatus := t.irqStatus, buf := t.buf }

/-- R140, R302, R305: the errors of PROCESS, in the order NOT_PREPARED, ENGINE_BUSY, LENGTH. -/
def Obligations.ProcessErrorsInOrder : Prop :=
  ∀ (n : BitVec 14) (s : State),
    (s.prepared = false →
      exec (.process n) s
        = .next { s with lastErr := .notPrepared, irqStatus := s.irqStatus ||| 0b000100#6, resp := .write true })
    ∧ (s.prepared = true → s.astate ≠ .idle →
        exec (.process n) s
          = .next { s with lastErr := .engineBusy, irqStatus := s.irqStatus ||| 0b000100#6, resp := .write true })
    ∧ (s.prepared = true → s.astate = .idle → s.actBlkMax.toNat < n.toNat →
        exec (.process n) s
          = .next { s with lastErr := .length, irqStatus := s.irqStatus ||| 0b000100#6, resp := .write true })

/-- R145: SET_SLOPE stores K, enables exactly sub-biquads 0..K of the cut's shadow, sets PCHG, and changes nothing
else. -/
def Obligations.SetSlopeEnablesPrefix : Prop :=
  ∀ (k : BitVec 2) (s : State),
    (∃ m : BitVec 4, (∀ i < 4, m.getLsbD i = decide (k.toNat < i))
      ∧ exec (.setSlope .low k) s = .next { s with lcCfg := ⟨k, m⟩, pchg := true, resp := .write false })
    ∧ (∃ m : BitVec 4, (∀ i < 4, m.getLsbD i = decide (k.toNat < i))
      ∧ exec (.setSlope .high k) s = .next { s with hcCfg := ⟨k, m⟩, pchg := true, resp := .write false })

/-- R148: TICK on a prepared block requests a tick while AN_EN = 1 and does nothing while AN_EN = 0; unprepared it
raises NOT_PREPARED. -/
def Obligations.TickRequestsOnce : Prop :=
  ∀ s : State,
    (s.prepared = true → s.anEn = true → exec .tick s = .next { s with tickReq := true, resp := .write false })
    ∧ (s.prepared = true → s.anEn = false → exec .tick s = .next { s with resp := .write false })
    ∧ (s.prepared = false →
        exec .tick s
          = .next { s with lastErr := .notPrepared, irqStatus := s.irqStatus ||| 0b000100#6, resp := .write true })

/-- R154, R157: SET_BYP writes one bit of the shadow BYPASS and sets PCHG for a stage 0..5, and raises ILLEGAL for
6..15; SET_SUBBYP writes one bit of the cut's shadow SUB_BYP, keeps SLOPE and sets PCHG; neither changes anything
else. -/
def Obligations.BypassCommandsWriteOneBit : Prop :=
  (∀ (stage : BitVec 4) (v : Bool) (s : State),
    (stage.toNat ≤ 5 →
      ∃ m : BitVec 6, (∀ i < 6, m.getLsbD i = if i = stage.toNat then v else s.bypass.getLsbD i)
        ∧ exec (.setByp stage v) s = .next { s with bypass := m, pchg := true, resp := .write false })
    ∧ (5 < stage.toNat →
        exec (.setByp stage v) s
          = .next { s with lastErr := .illegal, irqStatus := s.irqStatus ||| 0b000100#6, resp := .write true }))
  ∧ (∀ (idx : BitVec 2) (v : Bool) (s : State),
    (∃ m : BitVec 4, (∀ i < 4, m.getLsbD i = if i = idx.toNat then v else s.lcCfg.subByp.getLsbD i)
      ∧ exec (.setSubByp .low idx v) s
          = .next { s with lcCfg := ⟨s.lcCfg.slope, m⟩, pchg := true, resp := .write false })
    ∧ (∃ m : BitVec 4, (∀ i < 4, m.getLsbD i = if i = idx.toNat then v else s.hcCfg.subByp.getLsbD i)
      ∧ exec (.setSubByp .high idx v) s
          = .next { s with hcCfg := ⟨s.hcCfg.slope, m⟩, pchg := true, resp := .write false }))

/-! ### Bus transactions (20_memory.md, 40_commands.md R130, R131) -/

/-- R81, R82: what every word address names: each mapped row by its formula, and nothing in the unmapped rows. -/
def Obligations.AddressMap : Prop :=
  (∀ row ∈ ([(0x000#20, .id), (0x004#20, .version), (0x008#20, .cmd), (0x00C#20, .status), (0x010#20, .irqStatus),
      (0x014#20, .irqEnable), (0x018#20, .ctrl), (0x01C#20, .paramChg), (0x020#20, .sampleRate), (0x024#20, .blkMax),
      (0x028#20, .fftCfg), (0x02C#20, .frameSize), (0x030#20, .bypass), (0x034#20, .lcCfg), (0x038#20, .hcCfg),
      (0x03C#20, .dbFloor), (0x040#20, .tickPeriod), (0x044#20, .blkCnt), (0x048#20, .specSeq .L),
      (0x04C#20, .specSeq .R), (0x050#20, .fifoPtr .L), (0x054#20, .fifoStg .L), (0x058#20, .fifoDrop .L),
      (0x05C#20, .fifoPtr .R), (0x060#20, .fifoStg .R), (0x064#20, .fifoDrop .R), (0x068#20, .actFftSize),
      (0x06C#20, .actFrameSize), (0x070#20, .actBlkMax), (0x074#20, .actBypass)] : List (BusAddr × CtrlReg)),
    region row.1 = .ctrl row.2)
  ∧ (∀ (b : Fin 11) (k : Fin 5),
      region (BitVec.ofNat 20 (0x100 + 0x14 * b.val + 4 * k.val)) = .shCoef b k
      ∧ region (BitVec.ofNat 20 (0x200 + 0x14 * b.val + 4 * k.val)) = .actCoef b k)
  ∧ (∀ (b : Fin 11),
      region (BitVec.ofNat 20 (0x300 + 0x10 * b.val)) = .stateView b .L false
      ∧ region (BitVec.ofNat 20 (0x300 + 0x10 * b.val + 4)) = .stateView b .L true
      ∧ region (BitVec.ofNat 20 (0x300 + 0x10 * b.val + 8)) = .stateView b .R false
      ∧ region (BitVec.ofNat 20 (0x300 + 0x10 * b.val + 12)) = .stateView b .R true)
  ∧ (∀ j < 8192,
      region (BitVec.ofNat 20 (0x10000 + 4 * j)) = .buf .L j ∧ region (BitVec.ofNat 20 (0x18000 + 4 * j)) = .buf .R j)
  ∧ (∀ k < 4096,
      region (BitVec.ofNat 20 (0x20000 + 4 * k)) = .spec .L k ∧ region (BitVec.ofNat 20 (0x24000 + 4 * k)) = .spec .R k)
  ∧ (∀ a : BusAddr,
      ((0x78 ≤ a.toNat ∧ a.toNat ≤ 0xFF) ∨ (0x1DC ≤ a.toNat ∧ a.toNat ≤ 0x1FF)
        ∨ (0x2DC ≤ a.toNat ∧ a.toNat ≤ 0x2FF) ∨ (0x3B0 ≤ a.toNat ∧ a.toNat ≤ 0xFFFF)
        ∨ (0x28000 ≤ a.toNat)) → region a = .unmapped)

/-- R130, R303, R306: the errors of REG_READ in the order ALIGN, ADDR, BUSY: PRDATA 0, PSLVERR 1, the error recorded,
nothing else changed (a failed read of PARAM_CHG keeps PCHG). -/
def Obligations.ReadErrorsInOrder : Prop :=
  ∀ (a : BusAddr) (s : State),
    (a.toNat % 4 ≠ 0 →
      exec (.regRead a) s
        = .next { s with lastErr := .align, irqStatus := s.irqStatus ||| 0b001000#6, resp := .read 0 true })
    ∧ (a.toNat % 4 = 0 → region a = .unmapped →
        exec (.regRead a) s
          = .next { s with lastErr := .addr, irqStatus := s.irqStatus ||| 0b001000#6, resp := .read 0 true })
    ∧ (a.toNat % 4 = 0 → s.astate ≠ .idle →
        ((0x300 ≤ a.toNat ∧ a.toNat < 0x3B0) ∨ (0x10000 ≤ a.toNat ∧ a.toNat < 0x20000)) →
        exec (.regRead a) s
          = .next { s with lastErr := .busy, irqStatus := s.irqStatus ||| 0b001000#6, resp := .read 0 true })

/-- R130: a REG_READ that raises no error returns what the location holds and changes nothing else, but that a read of
PARAM_CHG clears PCHG (R42, R86). What each location holds: every register that is not STATUS or a FIFO register (those
have statements of their own) by its fields, bits without a field 0 (R33–R35, R37–R46, R48, R49, R53); coefficients 0..4
as b0, b1, b2, a1, a2 (R50, R52); S1 and S2 of a biquad and channel (R54); words of BUF and SPEC with byte lane k at
address + k (R55, R58, R85). -/
def Obligations.ReadReturnsLocation : Prop :=
  (∀ (a : BusAddr) (s : State), a.toNat % 4 = 0 → region a ≠ .unmapped →
    (((0x300 ≤ a.toNat ∧ a.toNat < 0x3B0) ∨ (0x10000 ≤ a.toNat ∧ a.toNat < 0x20000)) → s.astate = .idle) →
    (a = 0x1C#20 →
      exec (.regRead a) s
        = .next { s with pchg := false, resp := .read (if s.pchg then 1 else 0) false })
    ∧ (a ≠ 0x1C#20 → exec (.regRead a) s = .next { s with resp := .read (s.readRegion (region a)) false }))
  ∧ (∀ s : State,
    (∀ row ∈ ([(.id, 0x45514C31#32), (.version, 0x00070000#32), (.cmd, 0#32),
        (.irqStatus, 0#26 ++ s.irqStatus), (.irqEnable, 0#26 ++ s.irqEnable),
        (.ctrl, 0#26 ++ BitVec.ofBool (decide (s.win = .hann)) ++ BitVec.ofBool s.anEn ++ 0#2 ++ s.inCh),
        (.sampleRate, s.sampleRate), (.blkMax, 0#18 ++ s.blkMax), (.fftCfg, 0#30 ++ s.fftSel),
        (.frameSize, 0#18 ++ s.frameSize), (.bypass, 0#26 ++ s.bypass),
        (.lcCfg, 0#24 ++ s.lcCfg.subByp ++ 0#2 ++ s.lcCfg.slope),
        (.hcCfg, 0#24 ++ s.hcCfg.subByp ++ 0#2 ++ s.hcCfg.slope),
        (.dbFloor, s.dbFloor), (.tickPeriod, s.tickPeriod), (.blkCnt, s.blkCnt),
        (.specSeq .L, s.chL.specSeq), (.specSeq .R, s.chR.specSeq),
        (.actFftSize, s.actFftSize), (.actFrameSize, s.actFrameSize), (.actBlkMax, s.actBlkMax),
        (.actBypass, 0#16 ++ s.actHcSub ++ s.actLcSub ++ 0#2 ++ s.actByp)] : List (CtrlReg × Word)),
      s.readRegion (.ctrl row.1) = row.2)
    ∧ (∀ b : Fin 11,
        [0, 1, 2, 3, 4].map (fun k => s.readRegion (.shCoef b k))
          = [(s.shCoef[b]).b0, (s.shCoef[b]).b1, (s.shCoef[b]).b2, (s.shCoef[b]).a1, (s.shCoef[b]).a2]
        ∧ [0, 1, 2, 3, 4].map (fun k => s.readRegion (.actCoef b k))
          = [(s.actCoef[b]).b0, (s.actCoef[b]).b1, (s.actCoef[b]).b2, (s.actCoef[b]).a1, (s.actCoef[b]).a2]
        ∧ s.readRegion (.stateView b .L false) = (s.chL.biquads[b]).s1
        ∧ s.readRegion (.stateView b .L true) = (s.chL.biquads[b]).s2
        ∧ s.readRegion (.stateView b .R false) = (s.chR.biquads[b]).s1
        ∧ s.readRegion (.stateView b .R true) = (s.chR.biquads[b]).s2)
    ∧ (∀ row ∈ ([(.L, 0x10000), (.R, 0x18000)] : List (Chan × Nat)), ∀ j < 8192,
        s.readRegion (.buf row.1 j)
          = s.ramByte (row.2 + 4 * j + 3) ++ s.ramByte (row.2 + 4 * j + 2) ++ s.ramByte (row.2 + 4 * j + 1)
              ++ s.ramByte (row.2 + 4 * j))
    ∧ (∀ row ∈ ([(.L, 0x20000), (.R, 0x24000)] : List (Chan × Nat)), ∀ k < 4096,
        s.readRegion (.spec row.1 k)
          = s.ramByte (row.2 + 4 * k + 3) ++ s.ramByte (row.2 + 4 * k + 2) ++ s.ramByte (row.2 + 4 * k + 1)
              ++ s.ramByte (row.2 + 4 * k)))

/-- R36: a read of STATUS shows the busy bits, PREPARED, TICK_PEND, the error code by its number (R300) and the interrupt line,
which is the OR of the enabled pending events (R310); every other bit reads 0. -/
def Obligations.StatusShowsFlags : Prop :=
  ∀ s : State,
    ((s.readRegion (.ctrl .status)).getLsbD 16 = true ↔
      ∃ e < 6, s.irqStatus.getLsbD e = true ∧ s.irqEnable.getLsbD e = true)
    ∧ (∀ i < 32, i ≠ 16 →
      (s.readRegion (.ctrl .status)).getLsbD i =
        (if i = 0 then decide (s.astate ≠ .idle)
         else if i = 1 then decide (s.rstate ≠ .idle)
         else if i = 2 then s.prepared
         else if i = 3 then s.tickReq
         else if 8 ≤ i ∧ i < 12 then s.lastErr.number.getLsbD (i - 8)
         else false))
    ∧ ∀ row ∈ ([(.none, 0), (.illegal, 1), (.engineBusy, 2), (.notPrepared, 3), (.length, 4), (.badConfig, 5),
          (.addr, 6), (.align, 7), (.ro, 8), (.busy, 9)] : List (ErrCode × BitVec 4)),
        s.lastErr = row.1 → (s.readRegion (.ctrl .status)).extractLsb' 8 4 = row.2

/-- R47: a read of FIFO_c_PTR shows WPTR, RPTR, WVIEW and RVIEW at bits 0, 8, 16 and 24, FIFO_c_STG the staging index, FIFO_c_DROP
the count of refused pushes; each is 0 after reset. -/
def Obligations.FifoStatusRegisters : Prop :=
  ∀ (s : State) (c : Chan),
    ((s.readRegion (.ctrl (.fifoPtr c))).extractLsb' 0 8).toNat = (s.ch c).wptr.val
    ∧ ((s.readRegion (.ctrl (.fifoPtr c))).extractLsb' 8 8).toNat = (s.ch c).rptr.val
    ∧ ((s.readRegion (.ctrl (.fifoPtr c))).extractLsb' 16 8).toNat = (s.ch c).wview.val
    ∧ ((s.readRegion (.ctrl (.fifoPtr c))).extractLsb' 24 8).toNat = (s.ch c).rview.val
    ∧ (s.readRegion (.ctrl (.fifoStg c))).toNat = (s.ch c).sidx.toNat
    ∧ (s.readRegion (.ctrl (.fifoDrop c))).toNat = (s.ch c).dropCnt.toNat
    ∧ State.reset.readRegion (.ctrl (.fifoPtr c)) = 0 ∧ State.reset.readRegion (.ctrl (.fifoStg c)) = 0
    ∧ State.reset.readRegion (.ctrl (.fifoDrop c)) = 0

/-- R131, R303, R306: the errors of REG_WRITE in the order ALIGN, ADDR, RO, BUSY: PSLVERR 1, the error recorded, nothing
written. -/
def Obligations.WriteErrorsInOrder : Prop :=
  ∀ (a : BusAddr) (strb : BitVec 4) (v : Word) (s : State),
    ((a.toNat % 4 ≠ 0 ∨ strb ≠ 0xF#4) →
      exec (.regWrite a strb v) s
        = .next { s with lastErr := .align, irqStatus := s.irqStatus ||| 0b001000#6, resp := .write true })
    ∧ (a.toNat % 4 = 0 → strb = 0xF#4 → region a = .unmapped →
        exec (.regWrite a strb v) s
          = .next { s with lastErr := .addr, irqStatus := s.irqStatus ||| 0b001000#6, resp := .write true })
    ∧ (a.toNat % 4 = 0 → strb = 0xF#4 →
        (a.toNat ∈ [0x000, 0x004, 0x00C, 0x01C] ∨ (0x044 ≤ a.toNat ∧ a.toNat < 0x078)
          ∨ (0x200 ≤ a.toNat ∧ a.toNat < 0x2DC) ∨ (0x300 ≤ a.toNat ∧ a.toNat < 0x3B0)
          ∨ (0x20000 ≤ a.toNat ∧ a.toNat < 0x28000)) →
        exec (.regWrite a strb v) s
          = .next { s with lastErr := .ro, irqStatus := s.irqStatus ||| 0b001000#6, resp := .write true })
    ∧ (a.toNat % 4 = 0 → strb = 0xF#4 → (0x10000 ≤ a.toNat ∧ a.toNat < 0x20000) → s.astate ≠ .idle →
        exec (.regWrite a strb v) s
          = .next { s with lastErr := .busy, irqStatus := s.irqStatus ||| 0b001000#6, resp := .write true })

/-- R37, R38, R39, R40, R41, R48, R49, R131: writes of the plain control registers store their fields, with the rules of
W1C, IN_CH = 3, a non-finite DB_FLOOR and TCNT, and change nothing else. -/
def Obligations.WriteControlRegisters : Prop :=
  ∀ (v : Word) (s : State),
    exec (.regWrite 0x010#20 0xF#4 v) s
      = .next { s with irqStatus := s.irqStatus &&& ~~~(v.extractLsb' 0 6), resp := .write false }
    ∧ exec (.regWrite 0x014#20 0xF#4 v) s = .next { s with irqEnable := v.extractLsb' 0 6, resp := .write false }
    ∧ exec (.regWrite 0x018#20 0xF#4 v) s
        = .next { s with
            inCh := if v.extractLsb' 0 2 = 3#2 then 2#2 else v.extractLsb' 0 2
            anEn := v.getLsbD 4
            win := if v.getLsbD 5 then .hann else .blackmanHarris
            resp := .write false }
    ∧ exec (.regWrite 0x020#20 0xF#4 v) s = .next { s with sampleRate := v, resp := .write false }
    ∧ exec (.regWrite 0x024#20 0xF#4 v) s = .next { s with blkMax := v.extractLsb' 0 14, resp := .write false }
    ∧ exec (.regWrite 0x028#20 0xF#4 v) s = .next { s with fftSel := v.extractLsb' 0 2, resp := .write false }
    ∧ exec (.regWrite 0x02C#20 0xF#4 v) s = .next { s with frameSize := v.extractLsb' 0 14, resp := .write false }
    ∧ exec (.regWrite 0x03C#20 0xF#4 v) s
        = .next { s with
            dbFloor := if v.extractLsb' 23 8 = 0xFF#8 then s.dbFloor else v
            resp := .write false }
    ∧ exec (.regWrite 0x040#20 0xF#4 v) s = .next { s with tickPeriod := v, tcnt := 0, resp := .write false }

/-- R42, R43, R44, R50, R131: writes of the shadow registers and the shadow bank store what the rules say, set PCHG, and
change nothing else, the active set included. -/
def Obligations.WriteShadowRegisters : Prop :=
  ∀ (v : Word) (s : State),
    exec (.regWrite 0x030#20 0xF#4 v) s
      = .next { s with bypass := v.extractLsb' 0 6, pchg := true, resp := .write false }
    ∧ exec (.regWrite 0x034#20 0xF#4 v) s
        = .next { s with lcCfg := ⟨v.extractLsb' 0 2, v.extractLsb' 4 4⟩, pchg := true, resp := .write false }
    ∧ exec (.regWrite 0x038#20 0xF#4 v) s
        = .next { s with hcCfg := ⟨v.extractLsb' 0 2, v.extractLsb' 4 4⟩, pchg := true, resp := .write false }
    ∧ (∀ (b : Fin 11) (k : Fin 5),
        ∃ t, exec (.regWrite (BitVec.ofNat 20 (0x100 + 0x14 * b.val + 4 * k.val)) 0xF#4 v) s = .next t
          ∧ (∀ (b' : Fin 11) (k' : Fin 5),
              (t.shCoef[b']).get k' = if b' = b ∧ k' = k then v else (s.shCoef[b']).get k')
          ∧ t = { s with shCoef := t.shCoef, pchg := true, resp := .write false })

/-- R55, R131: while AUDIO is idle a write of BUF[c][j] stores the word: it reads back, every byte outside it is
unchanged, and so is everything else. -/
def Obligations.WriteBlockBuffer : Prop :=
  ∀ (c : Chan) (j : Nat) (v : Word) (s : State), j < 8192 → s.astate = .idle →
    ∃ t, exec (.regWrite (BitVec.ofNat 20 (bufAddr c j)) 0xF#4 v) s = .next t
      ∧ t.bufWord c j = v
      ∧ (∀ a, a < bufAddr c j ∨ bufAddr c j + 4 ≤ a → t.ramByte a = s.ramByte a)
      ∧ t = { s with buf := t.buf, resp := .write false }

/-! ### Filter chain (42_filter_chain.md) -/

/-- R14, R200: rounding to the grid of binary32 values is to nearest, ties to even: the rounded magnitude is at least as
near the exact value as every finite binary32 magnitude is; it has 24 significant bits; and of two equally near values it
is the even one. -/
def Obligations.RoundingIsNearest : Prop :=
  ∀ num den : Nat, 0 < den →
    (∀ w : Word, Binary32.isFinite w = true →
      |(num : ℚ) / den - Binary32.roundToGrid num den| ≤ |(num : ℚ) / den - Binary32.units w|)
    ∧ Binary32.NearestEven ((num : ℚ) / den) (Binary32.roundToGrid num den)

/-- R85, R200: packing a rounded magnitude below 2^277 units (that is, 2^128) gives a finite word of that magnitude and
sign; at or above it, the infinity of the sign. -/
def Obligations.PackedWordIsExact : Prop :=
  ∀ (neg : Bool) (num den : Nat), 0 < den →
    (Binary32.roundToGrid num den < 2 ^ 277 →
      Binary32.isFinite (Binary32.pack neg (Binary32.roundToGrid num den)) = true
      ∧ Binary32.sign (Binary32.pack neg (Binary32.roundToGrid num den)) = neg
      ∧ Binary32.units (Binary32.pack neg (Binary32.roundToGrid num den)) = Binary32.roundToGrid num den)
    ∧ (2 ^ 277 ≤ Binary32.roundToGrid num den →
        Binary32.pack neg (Binary32.roundToGrid num den) = if neg then 0xFF800000#32 else 0x7F800000#32)

/-- R14, R200, R201 (b), (c), (d): on finite operands fadd, fsub, fmul and fdiv are the exact sum, difference, product and
quotient of the values read (a subnormal read as a zero under FTZ), rounded once to nearest, ties to even, a subnormal
result being a zero of its sign under FTZ. A sum or difference has the sign of its exact value, and if that is 0 it is
+0.0 unless both summands are −0.0; the sign of a product or quotient is the XOR of the operands' signs. A nonzero value
over 0 is an infinity, 0 over 0 is QNAN. -/
def Obligations.ArithmeticRoundsExactResult : Prop :=
  ∀ a b : Word, Binary32.isFinite a = true → Binary32.isFinite b = true →
    let u := Binary32.valueRead a
    let v := Binary32.valueRead b
    let x := Binary32.sign a != Binary32.sign b
    (u + v ≠ 0 → Binary32.RoundsTo (decide (u + v < 0)) |u + v| (fadd a b))
    ∧ (u + v = 0 →
        fadd a b = if Binary32.sign a = true ∧ Binary32.sign b = true then 0x80000000#32 else 0x00000000#32)
    ∧ (u - v ≠ 0 → Binary32.RoundsTo (decide (u - v < 0)) |u - v| (fsub a b))
    ∧ (u - v = 0 →
        fsub a b = if Binary32.sign a = true ∧ Binary32.sign b = false then 0x80000000#32 else 0x00000000#32)
    ∧ Binary32.RoundsTo x (|u * v| / 2 ^ 149) (fmul a b)
    ∧ (v ≠ 0 → Binary32.RoundsTo x (|u / v| * 2 ^ 149) (fdiv a b))
    ∧ (v = 0 → fdiv a b = if u = 0 then 0x7FC00000#32 else if x then 0xFF800000#32 else 0x7F800000#32)

/-- R201 (a), (b), (c): special values, whatever FTZ is: a NaN operand gives QNAN; a finite value less itself is +0.0;
−0.0 plus −0.0 is −0.0, plus +0.0 is +0.0. Infinities: one added to or less a finite value stays itself, and a finite value
less it is the other; two of one sign add to themselves and two opposite ones subtract to the first, two opposite ones
added and two of one sign subtracted give QNAN; times an infinity or a nonzero value, and over a finite value, it is the
infinity of the XOR of the signs; times a value read as zero (under FTZ a subnormal is) it gives QNAN, ±0.0 whatever FTZ
is; a finite value over it is the zero of the XOR of the signs; over an infinity it gives QNAN. -/
def Obligations.SpecialValues : Prop :=
  (∀ a b : Word, Binary32.isNaN a = true ∨ Binary32.isNaN b = true →
    fadd a b = 0x7FC00000#32 ∧ fsub a b = 0x7FC00000#32 ∧ fmul a b = 0x7FC00000#32 ∧ fdiv a b = 0x7FC00000#32)
  ∧ fadd 0x7F800000#32 0xFF800000#32 = 0x7FC00000#32 ∧ fadd 0xFF800000#32 0x7F800000#32 = 0x7FC00000#32
  ∧ (∀ a b : Word, Binary32.isZero a = true → Binary32.isInf b = true →
      fmul a b = 0x7FC00000#32 ∧ fmul b a = 0x7FC00000#32)
  ∧ (∀ a : Word, Binary32.isFinite a = true → fsub a a = 0#32)
  ∧ fadd 0x80000000#32 0x80000000#32 = 0x80000000#32
  ∧ fadd 0x00000000#32 0x80000000#32 = 0#32 ∧ fadd 0x80000000#32 0x00000000#32 = 0#32
  ∧ (∀ a b : Word, Binary32.isInf a = true → Binary32.isFinite b = true →
      let x := Binary32.sign a != Binary32.sign b
      let product := if Binary32.valueRead b = 0 then 0x7FC00000#32 else if x then 0xFF800000#32 else 0x7F800000#32
      fadd a b = a ∧ fadd b a = a ∧ fsub a b = a
      ∧ fsub b a = (if Binary32.sign a then 0x7F800000#32 else 0xFF800000#32)
      ∧ fmul a b = product ∧ fmul b a = product
      ∧ fdiv a b = (if x then 0xFF800000#32 else 0x7F800000#32)
      ∧ fdiv b a = (if x then 0x80000000#32 else 0x00000000#32))
  ∧ (∀ a b : Word, Binary32.isInf a = true → Binary32.isInf b = true →
      let x := Binary32.sign a != Binary32.sign b
      fadd a b = (if x then 0x7FC00000#32 else a) ∧ fsub a b = (if x then a else 0x7FC00000#32)
      ∧ fmul a b = (if x then 0xFF800000#32 else 0x7F800000#32) ∧ fdiv a b = 0x7FC00000#32)

/-- R206: which biquads are bypassed. -/
def Obligations.EffectiveBypass : Prop :=
  ∀ (s : State) (b : Fin 11),
    s.effBypass b = true ↔
      (s.actByp.getLsbD 0 = true
        ∨ (b.val ≤ 3 ∧ (s.actByp.getLsbD 1 = true ∨ s.actLcSub.getLsbD b.val = true))
        ∨ (b.val = 4 ∧ s.actByp.getLsbD 2 = true)
        ∨ (b.val = 5 ∧ s.actByp.getLsbD 3 = true)
        ∨ (b.val = 6 ∧ s.actByp.getLsbD 4 = true)
        ∨ (7 ≤ b.val ∧ (s.actByp.getLsbD 5 = true ∨ s.actHcSub.getLsbD (b.val - 7) = true)))

/-- R203, R204: the chain is the eleven biquads in index order; over no biquad it is the sample and the state as they
are; over a list of biquads it runs the first by the recurrence of R203 unless it is bypassed (R205),
stores its new S1 and S2, and passes its output to the rest. -/
def Obligations.ChainRunsRecurrence : Prop :=
  ∀ (s : State) (c : Chan) (b : Fin 11) (bs : List (Fin 11)) (x : Word),
    chain s c x = chainOver c [0, 1, 2, 3, 4, 5, 6, 7, 8, 9, 10] s x
    ∧ chainOver c [] s x = (s, x)
    ∧ (s.effBypass b = true → chainOver c (b :: bs) s x = chainOver c bs s x)
    ∧ (s.effBypass b = false →
        ∃ (t : State) (y : Word), chainOver c (b :: bs) s x = chainOver c bs t y
          ∧ y = fadd (fmul (s.actCoef[b]).b0 x) ((s.ch c).biquads[b]).s1
          ∧ ((t.ch c).biquads[b]).s1
              = fadd (fsub (fmul (s.actCoef[b]).b1 x) (fmul (s.actCoef[b]).a1 y)) ((s.ch c).biquads[b]).s2
          ∧ ((t.ch c).biquads[b]).s2 = fsub (fmul (s.actCoef[b]).b2 x) (fmul (s.actCoef[b]).a2 y)
          ∧ (∀ b' : Fin 11, b' ≠ b → (t.ch c).biquads[b'] = (s.ch c).biquads[b'])
          ∧ t = s.setCh c { s.ch c with biquads := (t.ch c).biquads })

/-- R205, R207, R208, R212: a sample changes nothing but the state of the biquads of its channel that are not bypassed;
a bypassed biquad's S1 and S2 are held; with ACT_BYP.ALL = 1 the chain is the identity bit for bit and changes no
state. -/
def Obligations.BypassedStateHeld : Prop :=
  ∀ (s : State) (c : Chan) (x : Word),
    (∀ b : Fin 11, s.effBypass b = true → ((chain s c x).1.ch c).biquads[b] = (s.ch c).biquads[b])
    ∧ (chain s c x).1 = s.setCh c { s.ch c with biquads := ((chain s c x).1.ch c).biquads }
    ∧ (s.actByp.getLsbD 0 = true → chain s c x = (s, x))

/-- R224: channels with equal states that are fed equal samples give equal outputs and equal states. -/
def Obligations.ChannelsAgree : Prop :=
  ∀ (s t : State) (x : Word), s.chL.biquads = t.chR.biquads → s.actCoef = t.actCoef → s.actByp = t.actByp →
    s.actLcSub = t.actLcSub → s.actHcSub = t.actHcSub →
    (chain s .L x).2 = (chain t .R x).2 ∧ (chain s .L x).1.chL.biquads = (chain t .R x).1.chR.biquads

/-- R203, R227: a biquad whose S1 is QNAN answers QNAN and keeps QNAN in both state variables, for every sample and
every set. -/
def Obligations.NanStateStays : Prop :=
  ∀ (k : Coefs) (st : BiquadState) (x : Word), st.s1 = 0x7FC00000#32 →
    (biquadStep k st x).2 = 0x7FC00000#32
    ∧ (biquadStep k st x).1.s1 = 0x7FC00000#32 ∧ (biquadStep k st x).1.s2 = 0x7FC00000#32

/-- R222: a turn of AUDIO inside a block filters sample j of both channels in place, tees each result, L then R, and
moves to j + 1. The channels and the events are those the tee leaves: L's tee of L's result after L's chain, then R's; of
a channel only the biquad states, STG, SIDX, SLOT, WPTR and DROP_CNT change. The other words of the block buffers and
everything the rule does not name are unchanged. -/
def Obligations.AudioSampleStep : Prop :=
  ∀ (s : State) (rest : List Input) (j n : Nat), s.inputs = .turn .audio :: rest → s.astate = .run j n → j < n →
    let yL := (chain s .L (s.bufWord .L j)).2
    let yR := (chain s .R (s.bufWord .R j)).2
    let u := fifoTee (chain s .L (s.bufWord .L j)).1 .L yL
    let w := fifoTee (chain u .R (s.bufWord .R j)).1 .R yR
    ∃ t, step s = .next t
      ∧ t.bufWord .L j = yL ∧ t.bufWord .R j = yR
      ∧ (∀ a, (∀ c : Chan, a < bufAddr c j ∨ bufAddr c j + 4 ≤ a) → t.ramByte a = s.ramByte a)
      ∧ t.chL.biquads = (chain s .L (s.bufWord .L j)).1.chL.biquads
      ∧ t.chR.biquads = (chain s .R (s.bufWord .R j)).1.chR.biquads
      ∧ (∀ c : Chan, t.ch c = { s.ch c with
          biquads := (t.ch c).biquads, stg := (t.ch c).stg, sidx := (t.ch c).sidx, slot := (t.ch c).slot
          wptr := (t.ch c).wptr, dropCnt := (t.ch c).dropCnt })
      ∧ t = { s with
          astate := .run (j + 1) n, inputs := rest, buf := t.buf, chL := w.chL, chR := w.chR
          irqStatus := w.irqStatus }

/-- R223: when every sample is done, a turn of AUDIO ends the block: idle, BLK_CNT + 1 mod 2^32, BLK_DONE, nothing
else. -/
def Obligations.AudioDoneStep : Prop :=
  ∀ (s : State) (rest : List Input) (n : Nat), s.inputs = .turn .audio :: rest → s.astate = .run n n →
    step s = .next { s with
      inputs := rest, astate := .idle, blkCnt := s.blkCnt + 1, irqStatus := s.irqStatus ||| 0b000001#6 }

/-- R226: a block of n samples takes exactly n AUDIO_SAMPLE steps and one AUDIO_DONE, whatever the other agents and HOST
do in between, unless the reset input ends it: after k ≤ n turns of AUDIO it has processed k samples and is not done; the
turn of AUDIO after the n-th ends it, with BLK_CNT one higher. -/
def Obligations.BlockTakesBoundedTurns : Prop :=
  ∀ (s : State) (n : Nat) (between rest : List Input), s.astate = .run 0 n → s.inputs = between ++ rest →
    .reset ∉ between → between.count (.turn .audio) ≤ n →
    (∃ t, Sys2Proof.core.run between.length s = .next t
      ∧ t.astate = .run (between.count (.turn .audio)) n ∧ t.blkCnt = s.blkCnt ∧ t.inputs = rest)
    ∧ (∀ rest', rest = .turn .audio :: rest' → between.count (.turn .audio) = n →
        ∃ t, Sys2Proof.core.run (between.length + 1) s = .next t
          ∧ t.astate = .idle ∧ t.blkCnt = s.blkCnt + 1 ∧ t.inputs = rest')

/-- R213: while a block runs, no step but the reset input changes the active set: coefficients, bypass flags,
sub-bypass vectors. -/
def Obligations.ActiveSetConstantDuringBlock : Prop :=
  ∀ s t : State, s.astate ≠ .idle → step s = .next t → (∀ rest, s.inputs ≠ .reset :: rest) →
    t.actCoef = s.actCoef ∧ t.actByp = s.actByp ∧ t.actLcSub = s.actLcSub ∧ t.actHcSub = s.actHcSub

/-! ### FIFOs (43_channel_fifo.md) -/

/-- R241: the tee stages the sample; a frame it does not fill only advances the index; a frame it fills is pushed whole
while occ_w < 30, into slot WPTR mod 30 and no other, and otherwise refused and counted; the index returns to 0. -/
def Obligations.TeeStagesAndPushes : Prop :=
  ∀ (s : State) (c : Chan) (y : Word), (s.ch c).sidx.toNat < s.actFrameSize.toNat → s.actFrameSize.toNat ≤ 8192 →
    let t := fifoTee s c y
    (∀ i, t.stgWord c i = if i = (s.ch c).sidx.toNat then y else s.stgWord c i)
    ∧ ((s.ch c).sidx.toNat + 1 < s.actFrameSize.toNat →
        (t.ch c).sidx.toNat = (s.ch c).sidx.toNat + 1
        ∧ t = s.setCh c { s.ch c with stg := (t.ch c).stg, sidx := (t.ch c).sidx })
    ∧ ((s.ch c).sidx.toNat + 1 = s.actFrameSize.toNat → ((s.ch c).wptr - (s.ch c).rview).val < 30 →
        (t.ch c).sidx = 0 ∧ (t.ch c).wptr = (s.ch c).wptr + 1
        ∧ (∀ i < s.actFrameSize.toNat, t.slotWord c ((s.ch c).wptr.val % 30) i = t.stgWord c i)
        ∧ (∀ k i, k ≠ (s.ch c).wptr.val % 30 → i < 8192 → t.slotWord c k i = s.slotWord c k i)
        ∧ t = s.setCh c { s.ch c with
            stg := (t.ch c).stg, sidx := (t.ch c).sidx, slot := (t.ch c).slot, wptr := (t.ch c).wptr })
    ∧ ((s.ch c).sidx.toNat + 1 = s.actFrameSize.toNat → ¬((s.ch c).wptr - (s.ch c).rview).val < 30 →
        (t.ch c).sidx = 0 ∧ (t.ch c).dropCnt = (s.ch c).dropCnt + 1
        ∧ t = { s.setCh c { s.ch c with
                  stg := (t.ch c).stg, sidx := (t.ch c).sidx, dropCnt := (t.ch c).dropCnt } with
                irqStatus := s.irqStatus ||| 0b010000#6 })

/-- R244, R256: every step keeps occ_r ≤ occ ≤ occ_w ≤ 30 on both FIFOs. -/
def Obligations.StepKeepsFifosBounded : Prop :=
  ∀ s t : State, s.FifosBounded → step s = .next t → t.FifosBounded

/-- R92, R244: no step but the reset input changes a frame that was pushed and not yet pulled: every slot from RPTR up to
WPTR keeps its words. -/
def Obligations.UnreadSlotsKept : Prop :=
  ∀ (s t : State) (c : Chan) (p : Ptr), s.FifosBounded → s.actFrameSize.toNat ≤ 8192 → step s = .next t →
    (∀ rest, s.inputs ≠ .reset :: rest) → (p - (s.ch c).rptr).val < (s.ch c).occ →
    ∀ i < 8192, t.slotWord c (slotOf p) i = s.slotWord c (slotOf p) i

/-- R248: a pointer's code is gray(p + 2) on 6 bits; consecutive pointers' codes differ in exactly one bit, the wrap
included; exactly its own code decodes to a pointer; 0x00, 0x01, 0x20 and 0x21 are never driven. -/
def Obligations.GrayCodeCycle : Prop :=
  ∀ p : Ptr,
    grayCode p = BitVec.ofNat 6 (p.val + 2) ^^^ (BitVec.ofNat 6 (p.val + 2) >>> 1)
    ∧ (∃ i < 6, grayCode p ^^^ grayCode (p + 1) = BitVec.twoPow 6 i)
    ∧ (∀ g : BitVec 6, grayDecode g = some p ↔ g = grayCode p)
    ∧ grayCode p ≠ 0x00 ∧ grayCode p ≠ 0x01 ∧ grayCode p ≠ 0x20 ∧ grayCode p ≠ 0x21

/-- R252, R253: a synchroniser's turn delivers the chosen value exactly when it lies after the view and not past the
pointer, and changes nothing but its view. That a turn with any other value is a step that changes nothing is the model's
own (log 21, DESIGN CHOICE): the spec has no such step. -/
def Obligations.SynchronisersMoveForward : Prop :=
  ∀ (s : State) (rest : List Input) (c : Chan) (v : Ptr),
    (s.inputs = .turn (.syncW c v) :: rest →
      step s = .next (
        if 0 < (v - (s.ch c).wview).val ∧ (v - (s.ch c).wview).val ≤ ((s.ch c).wptr - (s.ch c).wview).val
        then ({ s with inputs := rest }).setCh c { s.ch c with wview := v } else { s with inputs := rest }))
    ∧ (s.inputs = .turn (.syncR c v) :: rest →
        step s = .next (
          if 0 < (v - (s.ch c).rview).val ∧ (v - (s.ch c).rview).val ≤ ((s.ch c).rptr - (s.ch c).rview).val
          then ({ s with inputs := rest }).setCh c { s.ch c with rview := v } else { s with inputs := rest }))

/-- R21, R252, R253: in a weakly fair run a view whose pointer stays unchanged eventually equals it and stays equal;
every block that has been started ends; and every tick that has been started ends. -/
def Obligations.FairRunsProgress : Prop :=
  ∀ r : Run, r.WeaklyFair →
    (∀ (c : Chan) (n : Nat), (∀ m, n ≤ m → ((r.state m).ch c).wptr = ((r.state n).ch c).wptr) →
      ∃ k, n ≤ k ∧ ∀ m, k ≤ m → ((r.state m).ch c).wview = ((r.state m).ch c).wptr)
    ∧ (∀ (c : Chan) (n : Nat), (∀ m, n ≤ m → ((r.state m).ch c).rptr = ((r.state n).ch c).rptr) →
        ∃ k, n ≤ k ∧ ∀ m, k ≤ m → ((r.state m).ch c).rview = ((r.state m).ch c).rptr)
    ∧ (∀ n j len : Nat, (r.state n).astate = .run j len → j ≤ len → ∃ m, n ≤ m ∧ (r.state m).astate = .idle)
    ∧ (∀ n : Nat, (r.state n).rstate ≠ .idle → ∃ m, n ≤ m ∧ (r.state m).rstate = .idle)

/-- R21, for the model's own schedule (log 1, DESIGN CHOICE): a run in which no input reaches the block is weakly fair,
whatever the free choices are. -/
def Obligations.OwnScheduleIsFair : Prop :=
  ∀ r : Run, (∀ n, r.input n = none) → r.WeaklyFair

/-! ### FFT engine and timer (44_fft_engine.md, 60_exceptions.md R318) -/

/-- R271, R274: R_START with a request, a prepared block and AN_EN = 1; R_NEXT when nothing is left or the FIFO is empty
for the consumer: L passes on to R, R ends the tick. That a turn of RENDER without an enabled R_START is a step
that changes nothing is the model's own (log 21, DESIGN CHOICE): the spec has no such step. -/
def Obligations.TickSequencing : Prop :=
  ∀ (s : State) (rest : List Input), s.inputs = .turn .render :: rest →
    (s.rstate = .idle →
      (s.tickReq = true → s.prepared = true → s.anEn = true →
        step s = .next { s with inputs := rest, tickReq := false, rstate := .pull .L 30 })
      ∧ (¬(s.tickReq = true ∧ s.prepared = true ∧ s.anEn = true) → step s = .next { s with inputs := rest }))
    ∧ (∀ left, s.rstate = .pull .L left → (left = 0 ∨ s.chL.wview = s.chL.rptr) →
        step s = .next { s with inputs := rest, rstate := .pull .R 30 })
    ∧ (∀ left, s.rstate = .pull .R left → (left = 0 ∨ s.chR.wview = s.chR.rptr) →
        step s = .next { s with inputs := rest, rstate := .idle })

/-- R272: R_PULL shifts the rolling buffer left by F, appends the pulled frame, advances RPTR and goes to FFT; nothing
else changes. -/
def Obligations.PullSlidesRollingBuffer : Prop :=
  ∀ (s : State) (rest : List Input) (c : Chan) (left : Nat),
    s.inputs = .turn .render :: rest → s.rstate = .pull c left → 0 < left → (s.ch c).wview ≠ (s.ch c).rptr →
    s.actFrameSize.toNat ≤ s.actFftSize.toNat →
    ∃ t, step s = .next t
      ∧ t.rstate = .fft c (left - 1) ∧ (t.ch c).rptr = (s.ch c).rptr + 1
      ∧ (∀ i < s.actFftSize.toNat - s.actFrameSize.toNat,
          t.rollWord c i = s.rollWord c (i + s.actFrameSize.toNat))
      ∧ (∀ i < s.actFrameSize.toNat,
          t.rollWord c (s.actFftSize.toNat - s.actFrameSize.toNat + i)
            = s.slotWord c ((s.ch c).rptr.val % 30) i)
      ∧ t = { s.setCh c { s.ch c with rptr := (t.ch c).rptr, roll := (t.ch c).roll } with
              inputs := rest, rstate := t.rstate }

/-- R276, R288, R289: R_FFT publishes bins 0..N/2−1 of its channel, each from the windowed rolling buffer, counts and
announces the spectrum, and returns to PULL; every other byte of RAM and everything else is unchanged. -/
def Obligations.FftPublishesSpectrum : Prop :=
  ∀ (s : State) (rest : List Input) (c : Chan) (left : Nat),
    s.inputs = .turn .render :: rest → s.rstate = .fft c left →
    ∃ t, step s = .next t
      ∧ t.rstate = .pull c left ∧ (t.ch c).specSeq = (s.ch c).specSeq + 1
      ∧ t.irqStatus = s.irqStatus ||| 0b000010#6
      ∧ (∀ k < s.actFftSize.toNat / 2,
          t.specWord c k = dbfloor s.dbFloor (normMagnitude s.actFftSize.toNat (fftMag s.actFftSize.toNat
            ((List.range s.actFftSize.toNat).map
              (fun i => fmul (s.rollWord c i) (wtab s.win s.actFftSize.toNat i))) k)))
      ∧ (∀ a, a < specAddr c 0 ∨ specAddr c (s.actFftSize.toNat / 2) ≤ a → t.ramByte a = s.ramByte a)
      ∧ t = { s.setCh c { s.ch c with specSeq := (t.ch c).specSeq } with
              inputs := rest, rstate := t.rstate, irqStatus := t.irqStatus, spec := t.spec }

/-- R276, R283 (c): the spectrum of silence is DB_FLOOR in every bin, whatever the open functions are. -/
def Obligations.SilenceShowsFloor : Prop :=
  ∀ (s : State) (c : Chan),
    (s.actFftSize = 2048 ∨ s.actFftSize = 4096 ∨ s.actFftSize = 8192) →
    (∀ i < s.actFftSize.toNat, s.rollWord c i = 0) →
    s.spectrum c = List.replicate (s.actFftSize.toNat / 2) s.dbFloor

/-- R284, R286, R287: a magnitude is divided by N/2, a non-finite one counting as +0.0; the bin of a positive normalised
magnitude is its DB20 unless that is below the floor, and the floor then; the bin of any other is the floor. With a finite
floor every bin is finite and not below it. The two comparisons take a subnormal as it is, FTZ or not: the model's reading
of R286 in log 9 (DEDUCED, unsafe), on which every clause rests for a subnormal magnitude, DB20 value or floor under
FTZ. -/
def Obligations.PublishedBinsBounded : Prop :=
  (∀ row ∈ ([(2048, 0x44800000#32), (4096, 0x45000000#32), (8192, 0x45800000#32)] : List (Nat × Word)), ∀ m : Word,
    (Binary32.isFinite m = true → normMagnitude row.1 m = fdiv m row.2)
    ∧ (Binary32.isFinite m = false → normMagnitude row.1 m = 0x00000000#32))
  ∧ (∀ floor m : Word,
    (Binary32.lt 0x00000000#32 m = true → Binary32.lt (db20 m) floor = false → dbfloor floor m = db20 m)
    ∧ (Binary32.lt 0x00000000#32 m = true → Binary32.lt (db20 m) floor = true → dbfloor floor m = floor)
    ∧ (Binary32.lt 0x00000000#32 m = false → dbfloor floor m = floor)
    ∧ (Binary32.isFinite floor = true →
        Binary32.isFinite (dbfloor floor m) = true ∧ Binary32.lt (dbfloor floor m) floor = false))

/-- R280, R283 (b), (c), R285 (b) to (e): the window words are finite and not negative; a magnitude is +0.0, positive
finite, +∞ or QNAN, and +0.0 for words ±0.0; DB20 is finite, +0.0 at 1.0, never falls, and is negative below 1.0 and
positive above. -/
def Obligations.OpenFunctionProperties : Prop :=
  (∀ kind n i, Binary32.isFinite (wtab kind n i) = true ∧ Binary32.lt (wtab kind n i) 0#32 = false)
  ∧ (∀ n xs k, fftMag n xs k = 0x7FC00000#32
      ∨ (Binary32.sign (fftMag n xs k) = false ∧ Binary32.isNaN (fftMag n xs k) = false))
  ∧ (∀ n xs k, (∀ x ∈ xs, x = 0x00000000#32 ∨ x = 0x80000000#32) → fftMag n xs k = 0#32)
  ∧ db20 0x3F800000#32 = 0#32
  ∧ ∀ m m' : Word, Binary32.lt 0#32 m = true → Binary32.isFinite m = true → Binary32.isFinite m' = true →
      Binary32.isFinite (db20 m) = true
      ∧ (Binary32.lt m 0x3F800000#32 = true → Binary32.lt (db20 m) 0#32 = true)
      ∧ (Binary32.lt 0x3F800000#32 m = true → Binary32.lt 0#32 (db20 m) = true)
      ∧ (Binary32.lt m m' = true → Binary32.lt (db20 m') (db20 m) = false)

/-- R275: a tick ends whatever the other agents and HOST do in between, AUDIO pushing included, unless the reset input
ends it: from an idle render engine with a request it may start, the turn of RENDER that starts it and 122 further turns
of RENDER include one after which it is idle again, and at most 30 frames of each channel have been pulled then. -/
def Obligations.TickEndsInBoundedTurns : Prop :=
  ∀ (s : State) (between rest : List Input), s.rstate = .idle → s.tickReq = true → s.prepared = true →
    s.anEn = true → s.inputs = .turn .render :: (between ++ rest) → .reset ∉ between →
    between.count (.turn .render) = 122 →
    ∃ k t, k ≤ between.length ∧ Sys2Proof.core.run (k + 1) s = .next t ∧ t.rstate = .idle
      ∧ ∀ c : Chan, ((t.ch c).rptr - (s.ch c).rptr).val ≤ 30

/-- R318: a turn of TIMER with TICK_PERIOD ≠ 0 counts, and at the period starts again and requests a tick if the block is
prepared and AN_EN = 1. That a turn with TICK_PERIOD = 0 is a step that changes nothing is the model's own (log 21, DESIGN
CHOICE): TIMER has no step then. -/
def Obligations.TimerFires : Prop :=
  ∀ (s : State) (rest : List Input), s.inputs = .turn .timer :: rest →
    (s.tickPeriod = 0 → step s = .next { s with inputs := rest })
    ∧ (s.tickPeriod ≠ 0 → (s.tcnt + 1).toNat < s.tickPeriod.toNat →
        step s = .next { s with inputs := rest, tcnt := s.tcnt + 1 })
    ∧ (s.tickPeriod ≠ 0 → s.tickPeriod.toNat ≤ (s.tcnt + 1).toNat →
        step s = .next { s with
          inputs := rest, tcnt := 0
          tickReq := if s.prepared = true ∧ s.anEn = true then true else s.tickReq })

/-- R292: no step of RENDER or TIMER reads or writes BUF, the coefficient banks, the bypass state, the biquad state, STG,
SIDX, WPTR or DROP_CNT, and no step of AUDIO reads ROLL, SPEC or RPTR: whatever is put in their place, the step is the
same and leaves it there. Beyond R292: no synchroniser changes these either (R252, R253), SLOT is AUDIO's alone (R240),
and AUDIO changes no ROLL, SPEC, SPEC_SEQ, RPTR, WVIEW or rstate (R222, R240, R241). -/
def Obligations.EnginesIsolated : Prop :=
  ∀ (s t : State) (a : Agent) (rest : List Input), s.inputs = .turn a :: rest → step s = .next t →
    (∀ u : State, (a = .render ∨ a = .timer) → step (s.withAudioSide u) = .next (t.withAudioSide u))
    ∧ (∀ u : State, a = .audio → step (s.withRenderSide u) = .next (t.withRenderSide u))
    ∧ (a ≠ .audio →
      t.buf = s.buf ∧ t.shCoef = s.shCoef ∧ t.actCoef = s.actCoef ∧ t.bypass = s.bypass ∧ t.actByp = s.actByp
      ∧ t.actLcSub = s.actLcSub ∧ t.actHcSub = s.actHcSub ∧ t.lcCfg = s.lcCfg ∧ t.hcCfg = s.hcCfg
      ∧ ∀ c : Chan, (t.ch c).biquads = (s.ch c).biquads ∧ (t.ch c).stg = (s.ch c).stg ∧ (t.ch c).sidx = (s.ch c).sidx
          ∧ (t.ch c).wptr = (s.ch c).wptr ∧ (t.ch c).dropCnt = (s.ch c).dropCnt ∧ (t.ch c).slot = (s.ch c).slot)
    ∧ (a = .audio →
        t.spec = s.spec ∧ t.rstate = s.rstate
        ∧ ∀ c : Chan, (t.ch c).roll = (s.ch c).roll ∧ (t.ch c).specSeq = (s.ch c).specSeq
            ∧ (t.ch c).rptr = (s.ch c).rptr ∧ (t.ch c).wview = (s.ch c).wview)

/-! ### Invariants every step keeps, and the whole machine -/

/-- The model's own representation (log 6): every step keeps every RAM in canonical form. -/
def Obligations.StepKeepsMemoryCanonical : Prop :=
  ∀ s t : State, s.MemoryCanonical → step s = .next t → t.MemoryCanonical

/-- R39, R48, R210, R318: every step keeps IN_CH ≠ 3, DB_FLOOR finite, the active coefficients finite, and TCNT below a
running timer's period. -/
def Obligations.StepKeepsRegistersLegal : Prop :=
  ∀ s t : State, s.RegistersLegal → step s = .next t → t.RegistersLegal

/-- R45, R56, R57, R59, R60: every step keeps the sequencers in range, and PREPARED consistent with the engines, the
pending request, the active configuration and the staging indices. The range of RUN(j, n) is the model's reading of log 7
(DEDUCED): j ≤ n ≤ ACT_BLK_MAX ≤ 8192, where R59 says n ≤ 8191 and R136 and R140 admit 8192. -/
def Obligations.StepKeepsControlLegal : Prop :=
  ∀ s t : State, s.ControlLegal → step s = .next t → t.ControlLegal

/-- R63: the invariants hold after reset. That every RAM is then in canonical form speaks of the model's own
representation (log 6) of RAM that lists nothing (log 4), both DESIGN CHOICEs. -/
def Obligations.ResetMeetsInvariants : Prop :=
  State.reset.MemoryCanonical ∧ State.reset.RegistersLegal ∧ State.reset.FifosBounded ∧ State.reset.ControlLegal

/-- R42: a step in which HOST presents a parameter write (BYPASS, LC_CFG, HC_CFG, the shadow bank or a SET_* command,
succeeding) leaves PCHG = 1, whether or not the value changes; no other step sets PCHG, no agent's turn among them; what
clears it is exactly a read of PARAM_CHG and the reset input. A step other than the reset input that leaves PCHG = 0 left
the shadow bank, BYPASS, LC_CFG and HC_CFG as they were. -/
def Obligations.ParameterChangeIsFlagged : Prop :=
  ∀ s t : State, step s = .next t →
    (∀ op rest i, s.inputs = .bus op :: rest → decode op = .ok i → WritesParameter i → t.pchg = true)
    ∧ (s.pchg = false → t.pchg = true →
        ∃ op rest i, s.inputs = .bus op :: rest ∧ decode op = .ok i ∧ WritesParameter i)
    ∧ (s.pchg = true →
        (t.pchg = false ↔
          (∃ rest, s.inputs = .reset :: rest)
          ∨ ∃ op rest, s.inputs = .bus op :: rest ∧ decode op = .ok (.regRead 0x01C#20)))
    ∧ ((∀ rest, s.inputs ≠ .reset :: rest) → t.pchg = false →
        t.shCoef = s.shCoef ∧ t.bypass = s.bypass ∧ t.lcCfg = s.lcCfg ∧ t.hcCfg = s.hcCfg)

/-- R37, R311: the event bits are sticky: a bit of IRQ_STATUS that is set stays set in every step but a REG_WRITE of
IRQ_STATUS and the reset input. -/
def Obligations.EventBitsSticky : Prop :=
  ∀ (s t : State) (e : Nat), s.irqStatus.getLsbD e = true → step s = .next t → t.irqStatus.getLsbD e = false →
    (∃ rest, s.inputs = .reset :: rest)
    ∨ (∃ op rest v, s.inputs = .bus op :: rest ∧ decode op = .ok (.regWrite 0x010#20 0xF#4 v) ∧ v.getLsbD e = true)
end

