-- ==== Sys2Proof/Laws/Ram.lean ====
section
/-! SUPPORT. What the RAM operations do, said once: reading after a write, and the canonical form kept. -/

namespace Sys2Proof.Machine

section Cells

variable {α : Type}

theorem cellAt_insert_same (a : Nat) (v : α) (l : List (Nat × α)) : cellAt a (cellsInsert a v l) = some v := by
  induction l with
  | nil => simp [cellsInsert, cellAt]
  | cons c rest ih =>
    obtain ⟨k, w⟩ := c
    by_cases h1 : a < k
    · simp [cellsInsert, h1, cellAt]
    · by_cases h2 : a = k
      · simp [cellsInsert, h2, cellAt]
      · simp [cellsInsert, h1, h2, cellAt, Ne.symm h2, ih]

theorem cellAt_insert_other {a b : Nat} (h : b ≠ a) (v : α) (l : List (Nat × α)) :
    cellAt b (cellsInsert a v l) = cellAt b l := by
  induction l with
  | nil => simp [cellsInsert, cellAt, Ne.symm h]
  | cons c rest ih =>
    obtain ⟨k, w⟩ := c
    by_cases h1 : a < k
    · simp [cellsInsert, h1, cellAt, Ne.symm h]
    · by_cases h2 : a = k
      · subst h2
        simp [cellsInsert, cellAt, Ne.symm h]
      · simp [cellsInsert, h1, h2, cellAt, ih]

theorem cellAt_erase_same (a : Nat) (l : List (Nat × α)) : cellAt a (cellsErase a l) = none := by
  induction l with
  | nil => rfl
  | cons c rest ih =>
    obtain ⟨k, w⟩ := c
    by_cases h : k = a
    · simpa [cellsErase, h] using ih
    · simpa [cellsErase, h, cellAt] using ih

theorem cellAt_erase_other {a b : Nat} (h : b ≠ a) (l : List (Nat × α)) :
    cellAt b (cellsErase a l) = cellAt b l := by
  induction l with
  | nil => rfl
  | cons c rest ih =>
    obtain ⟨k, w⟩ := c
    by_cases hk : k = a
    · subst hk
      simpa [cellsErase, cellAt, Ne.symm h] using ih
    · by_cases hb : k = b
      · simp [cellsErase, cellAt, hb, h]
      · simpa [cellsErase, hk, cellAt, hb] using ih

/-- The canonical order as a statement about every pair of entries. -/
theorem cellsRising_iff (l : List (Nat × α)) : cellsRising l = true ↔ l.Pairwise (fun x y => x.1 < y.1) := by
  induction l with
  | nil => simp [cellsRising]
  | cons c rest ih =>
    cases rest with
    | nil => simp [cellsRising]
    | cons d rest' =>
      simp only [cellsRising, Bool.and_eq_true, decide_eq_true_eq, ih, List.pairwise_cons, List.mem_cons]
      constructor
      · rintro ⟨hcd, hd, hr⟩
        refine ⟨?_, hd, hr⟩
        rintro e (rfl | he)
        · exact hcd
        · exact Nat.lt_trans hcd (hd e he)
      · rintro ⟨hc, hd, hr⟩
        exact ⟨hc d (Or.inl rfl), hd, hr⟩

theorem mem_cellsInsert {a : Nat} {v : α} {l : List (Nat × α)} {e : Nat × α} (h : e ∈ cellsInsert a v l) :
    e = (a, v) ∨ e ∈ l := by
  induction l with
  | nil => simpa [cellsInsert] using h
  | cons c rest ih =>
    obtain ⟨k, w⟩ := c
    by_cases h1 : a < k
    · simp only [cellsInsert, h1, if_true, List.mem_cons] at h
      simpa using h
    · by_cases h2 : a = k
      · simp only [cellsInsert, h2, lt_irrefl, if_false, if_true, List.mem_cons] at h
        subst h2
        rcases h with h | h
        · exact Or.inl h
        · exact Or.inr (List.mem_cons_of_mem _ h)
      · simp only [cellsInsert, h1, h2, if_false, List.mem_cons] at h
        rcases h with h | h
        · exact Or.inr (h ▸ List.mem_cons_self)
        · rcases ih h with h | h
          · exact Or.inl h
          · exact Or.inr (List.mem_cons_of_mem _ h)

theorem cellsInsert_rising {a : Nat} {v : α} {l : List (Nat × α)} (h : cellsRising l = true) :
    cellsRising (cellsInsert a v l) = true := by
  rw [cellsRising_iff] at h ⊢
  induction l with
  | nil => simp [cellsInsert]
  | cons c rest ih =>
    obtain ⟨k, w⟩ := c
    obtain ⟨hc, hr⟩ := List.pairwise_cons.mp h
    by_cases h1 : a < k
    · simp only [cellsInsert, h1, if_true]
      refine List.pairwise_cons.mpr ⟨?_, h⟩
      intro e he
      rcases List.mem_cons.mp he with rfl | he
      · exact h1
      · exact Nat.lt_trans h1 (hc e he)
    · by_cases h2 : a = k
      · subst h2
        simp only [cellsInsert, lt_irrefl, if_false, if_true]
        exact List.pairwise_cons.mpr ⟨hc, hr⟩
      · simp only [cellsInsert, h1, h2, if_false]
        refine List.pairwise_cons.mpr ⟨?_, ih hr⟩
        intro e he
        rcases mem_cellsInsert he with rfl | he
        · show k < a
          omega
        · exact hc e he

theorem cellsErase_rising {a : Nat} {l : List (Nat × α)} (h : cellsRising l = true) :
    cellsRising (cellsErase a l) = true := by
  rw [cellsRising_iff] at h ⊢
  exact h.sublist List.filter_sublist

end Cells

section RamLaws

variable {α : Type} [DecidableEq α]

@[simp] theorem Ram.write_fill (m : Ram α) (a : Nat) (v : α) : (m.write a v).fill = m.fill := by
  unfold Ram.write
  split <;> rfl

@[simp] theorem Ram.writeList_fill (m : Ram α) (a : Nat) (vs : List α) : (m.writeList a vs).fill = m.fill := by
  induction vs generalizing a with
  | nil => rfl
  | cons v vs ih => simp [Ram.writeList, ih]

/-- What was written is held. -/
@[simp] theorem Ram.at_write_same (m : Ram α) (a : Nat) (v : α) : (m.write a v).at a = some v := by
  by_cases h : m.fill = some v
  · simp [Ram.write, Ram.at, h, cellAt_erase_same]
  · simp [Ram.write, Ram.at, h, cellAt_insert_same]

/-- A write leaves every other address as it was. -/
theorem Ram.at_write_other (m : Ram α) {a b : Nat} (h : b ≠ a) (v : α) : (m.write a v).at b = m.at b := by
  by_cases hv : m.fill = some v
  · simp [Ram.write, Ram.at, hv, cellAt_erase_other h]
  · simp [Ram.write, Ram.at, hv, cellAt_insert_other h]

@[simp] theorem Ram.read_write_same (draw : Nat → α) (m : Ram α) (a : Nat) (v : α) :
    (m.write a v).read draw a = v := by
  simp [Ram.read]

theorem Ram.read_write_other (draw : Nat → α) (m : Ram α) {a b : Nat} (h : b ≠ a) (v : α) :
    (m.write a v).read draw b = m.read draw b := by
  simp [Ram.read, Ram.at_write_other m h]

/-- Consecutive writes: inside the range the written value, outside it what was there. -/
theorem Ram.read_writeList (draw : Nat → α) (m : Ram α) (a b : Nat) (vs : List α) :
    (m.writeList a vs).read draw b = if a ≤ b then (vs[b - a]?).getD (m.read draw b) else m.read draw b := by
  induction vs generalizing a with
  | nil => simp [Ram.writeList]
  | cons v vs ih =>
    by_cases hb : b = a
    · subst hb
      simp [Ram.writeList]
    · simp only [Ram.writeList]
      rw [Ram.read_write_other draw _ hb, ih]
      by_cases h1 : a + 1 ≤ b
      · have h3 : b - a = (b - (a + 1)) + 1 := by omega
        rw [if_pos h1, if_pos (by omega), h3]
        simp
      · rw [if_neg h1, if_neg (by omega)]

theorem Ram.read_writeList_outside (draw : Nat → α) (m : Ram α) {a b : Nat} (vs : List α)
    (h : b < a ∨ a + vs.length ≤ b) : (m.writeList a vs).read draw b = m.read draw b := by
  rw [Ram.read_writeList]
  split
  · rw [List.getElem?_eq_none (by omega)]
    rfl
  · rfl

omit [DecidableEq α] in
@[simp] theorem Ram.read_filled (draw : Nat → α) (v : α) (a : Nat) : (Ram.filled v).read draw a = v := rfl

/-- The canonical form, as a statement. -/
theorem Ram.wf_iff (m : Ram α) :
    m.wf = true ↔ cellsRising m.cells = true ∧ ∀ c ∈ m.cells, m.fill ≠ some c.2 := by
  simp [Ram.wf]

@[simp] theorem Ram.unwritten_wf : (Ram.unwritten : Ram α).wf = true := rfl

@[simp] theorem Ram.filled_wf (v : α) : (Ram.filled v).wf = true := rfl

/-- A write keeps the canonical form. -/
theorem Ram.write_wf {m : Ram α} (h : m.wf = true) (a : Nat) (v : α) : (m.write a v).wf = true := by
  rw [Ram.wf_iff] at h ⊢
  obtain ⟨hr, hf⟩ := h
  unfold Ram.write
  split
  · refine ⟨cellsErase_rising hr, ?_⟩
    intro c hc
    exact hf c (List.mem_of_mem_filter hc)
  · rename_i hv
    refine ⟨cellsInsert_rising hr, ?_⟩
    intro c hc
    rcases mem_cellsInsert hc with rfl | hc
    · exact hv
    · exact hf c hc

/-- Consecutive writes keep the canonical form. -/
theorem Ram.writeList_wf {m : Ram α} (h : m.wf = true) (a : Nat) (vs : List α) : (m.writeList a vs).wf = true := by
  induction vs generalizing a with
  | nil => exact h
  | cons v vs ih => exact Ram.write_wf (ih (a + 1)) a v

end RamLaws

/-! ### Words of bus RAM -/

@[simp] theorem lanes_length (v : Word) : (lanes v).length = 4 := rfl

/-- The lanes of a word make the word (R85). -/
theorem ofLanes_lanes (v : Word) :
    ofLanes (v.extractLsb' 0 8) (v.extractLsb' 8 8) (v.extractLsb' 16 8) (v.extractLsb' 24 8) = v := by
  apply BitVec.eq_of_getLsbD_eq
  intro i hi
  simp only [ofLanes, BitVec.getLsbD_append, BitVec.getLsbD_extractLsb']
  by_cases h1 : i < 8
  · simp [h1]
  · by_cases h2 : i - 8 < 8
    · simp [h1, h2]
      congr 1; omega
    · by_cases h3 : i - 8 - 8 < 8
      · simp [h1, h2, h3]
        congr 1; omega
      · have h4 : i - 8 - 8 - 8 < 8 := by omega
        simp [h1, h2, h3, h4]
        congr 1; omega

/-- A word written is read back. -/
@[simp] theorem Memory.readWord_writeWord_same (draw : Nat → Byte) (m : Memory) (a : Nat) (v : Word) :
    Memory.readWord draw (Memory.writeWord m a v) a = v := by
  simp only [Memory.readWord, Memory.writeWord, Ram.read_writeList, Nat.sub_self, Nat.add_sub_cancel_left,
    Nat.le_add_right, le_refl, if_true]
  exact ofLanes_lanes v

/-- A word write leaves every byte outside the word as it was. -/
theorem Memory.read_writeWord_outside (draw : Nat → Byte) (m : Memory) {a b : Nat} (v : Word)
    (h : b < a ∨ a + 4 ≤ b) : Ram.read draw (Memory.writeWord m a v) b = Ram.read draw m b :=
  Ram.read_writeList_outside draw m (lanes v) (by simpa using h)

/-- A word write leaves every disjoint word as it was. -/
theorem Memory.readWord_writeWord_outside (draw : Nat → Byte) (m : Memory) {a b : Nat} (v : Word)
    (h : b + 4 ≤ a ∨ a + 4 ≤ b) : Memory.readWord draw (Memory.writeWord m a v) b = Memory.readWord draw m b := by
  simp only [Memory.readWord]
  rw [Memory.read_writeWord_outside _ _ _ (by omega), Memory.read_writeWord_outside _ _ _ (by omega),
    Memory.read_writeWord_outside _ _ _ (by omega), Memory.read_writeWord_outside _ _ _ (by omega)]

theorem length_flatMap_lanes (vs : List Word) : (vs.flatMap lanes).length = 4 * vs.length := by
  induction vs with
  | nil => rfl
  | cons v vs ih =>
    simp [ih]
    omega

/-- Consecutive words written leave every byte outside them as it was. -/
theorem Memory.read_writeWords_outside (draw : Nat → Byte) (m : Memory) {a b : Nat} (vs : List Word)
    (h : b < a ∨ a + 4 * vs.length ≤ b) : Ram.read draw (Memory.writeWords m a vs) b = Ram.read draw m b :=
  Ram.read_writeList_outside draw m _ (by rw [length_flatMap_lanes]; exact h)

theorem getElem_flatMap_lanes (vs : List Word) (i k : Nat) (hi : i < vs.length) (hk : k < 4)
    (h : 4 * i + k < (vs.flatMap lanes).length) :
    (vs.flatMap lanes)[4 * i + k] = (vs[i]).extractLsb' (8 * k) 8 := by
  induction vs generalizing i with
  | nil => simp at hi
  | cons v vs ih =>
    cases i with
    | zero =>
      simp only [List.flatMap_cons, Nat.mul_zero, Nat.zero_add, List.getElem_cons_zero]
      rw [List.getElem_append_left (by simpa using hk)]
      match k, hk with
      | 0, _ => rfl
      | 1, _ => rfl
      | 2, _ => rfl
      | 3, _ => rfl
    | succ i =>
      simp only [List.flatMap_cons, List.getElem_cons_succ]
      rw [List.getElem_append_right (by simp; omega)]
      have hlen := length_flatMap_lanes vs
      have hi' : i < vs.length := by simpa using hi
      have e : 4 * (i + 1) + k - (lanes v).length = 4 * i + k := by simp; omega
      simp only [e]
      exact ih i hi' (by omega)

/-- Consecutive words written are read back. -/
theorem Memory.readWord_writeWords (draw : Nat → Byte) (m : Memory) (a : Nat) (vs : List Word) (i : Nat)
    (hi : i < vs.length) : Memory.readWord draw (Memory.writeWords m a vs) (a + 4 * i) = vs[i] := by
  have hlen := length_flatMap_lanes vs
  have key : ∀ k, k < 4 → Ram.read draw (Memory.writeWords m a vs) (a + 4 * i + k) = (vs[i]).extractLsb' (8 * k) 8 := by
    intro k hk
    have e : a + 4 * i + k - a = 4 * i + k := by omega
    rw [Memory.writeWords, Ram.read_writeList, if_pos (by omega), e, List.getElem?_eq_getElem (by omega)]
    exact getElem_flatMap_lanes vs i k hi hk (by omega)
  unfold Memory.readWord
  rw [key 1 (by omega), key 2 (by omega), key 3 (by omega)]
  rw [show a + 4 * i = a + 4 * i + 0 from rfl, key 0 (by omega)]
  exact ofLanes_lanes _

theorem Memory.writeWord_wf {m : Memory} (h : Memory.wf m = true) (a : Nat) (v : Word) :
    Memory.wf (Memory.writeWord m a v) = true := Ram.writeList_wf h a _

theorem Memory.writeWords_wf {m : Memory} (h : Memory.wf m = true) (a : Nat) (vs : List Word) :
    Memory.wf (Memory.writeWords m a vs) = true := Ram.writeList_wf h a _

end Sys2Proof.Machine
end

