-- ==== Sys2Proof/Laws/State.lean ====
section
/-! SUPPORT. One lemma per field and named update of `State`, so that no later proof unfolds a record update. -/

namespace Sys2Proof.Machine

/-! ### `State.raise` -/

@[simp] theorem State.raise_irqStatus (s : State) (e : IrqEvent) : (s.raise e).irqStatus = setBit s.irqStatus e.bit true := rfl
@[simp] theorem State.raise_irqEnable (s : State) (e : IrqEvent) : (s.raise e).irqEnable = s.irqEnable := rfl
@[simp] theorem State.raise_inCh (s : State) (e : IrqEvent) : (s.raise e).inCh = s.inCh := rfl
@[simp] theorem State.raise_anEn (s : State) (e : IrqEvent) : (s.raise e).anEn = s.anEn := rfl
@[simp] theorem State.raise_win (s : State) (e : IrqEvent) : (s.raise e).win = s.win := rfl
@[simp] theorem State.raise_pchg (s : State) (e : IrqEvent) : (s.raise e).pchg = s.pchg := rfl
@[simp] theorem State.raise_sampleRate (s : State) (e : IrqEvent) : (s.raise e).sampleRate = s.sampleRate := rfl
@[simp] theorem State.raise_blkMax (s : State) (e : IrqEvent) : (s.raise e).blkMax = s.blkMax := rfl
@[simp] theorem State.raise_fftSel (s : State) (e : IrqEvent) : (s.raise e).fftSel = s.fftSel := rfl
@[simp] theorem State.raise_frameSize (s : State) (e : IrqEvent) : (s.raise e).frameSize = s.frameSize := rfl
@[simp] theorem State.raise_bypass (s : State) (e : IrqEvent) : (s.raise e).bypass = s.bypass := rfl
@[simp] theorem State.raise_lcCfg (s : State) (e : IrqEvent) : (s.raise e).lcCfg = s.lcCfg := rfl
@[simp] theorem State.raise_hcCfg (s : State) (e : IrqEvent) : (s.raise e).hcCfg = s.hcCfg := rfl
@[simp] theorem State.raise_dbFloor (s : State) (e : IrqEvent) : (s.raise e).dbFloor = s.dbFloor := rfl
@[simp] theorem State.raise_tickPeriod (s : State) (e : IrqEvent) : (s.raise e).tickPeriod = s.tickPeriod := rfl
@[simp] theorem State.raise_tcnt (s : State) (e : IrqEvent) : (s.raise e).tcnt = s.tcnt := rfl
@[simp] theorem State.raise_blkCnt (s : State) (e : IrqEvent) : (s.raise e).blkCnt = s.blkCnt := rfl
@[simp] theorem State.raise_actFftSize (s : State) (e : IrqEvent) : (s.raise e).actFftSize = s.actFftSize := rfl
@[simp] theorem State.raise_actFrameSize (s : State) (e : IrqEvent) : (s.raise e).actFrameSize = s.actFrameSize := rfl
@[simp] theorem State.raise_actBlkMax (s : State) (e : IrqEvent) : (s.raise e).actBlkMax = s.actBlkMax := rfl
@[simp] theorem State.raise_shCoef (s : State) (e : IrqEvent) : (s.raise e).shCoef = s.shCoef := rfl
@[simp] theorem State.raise_actCoef (s : State) (e : IrqEvent) : (s.raise e).actCoef = s.actCoef := rfl
@[simp] theorem State.raise_actByp (s : State) (e : IrqEvent) : (s.raise e).actByp = s.actByp := rfl
@[simp] theorem State.raise_actLcSub (s : State) (e : IrqEvent) : (s.raise e).actLcSub = s.actLcSub := rfl
@[simp] theorem State.raise_actHcSub (s : State) (e : IrqEvent) : (s.raise e).actHcSub = s.actHcSub := rfl
@[simp] theorem State.raise_chL (s : State) (e : IrqEvent) : (s.raise e).chL = s.chL := rfl
@[simp] theorem State.raise_chR (s : State) (e : IrqEvent) : (s.raise e).chR = s.chR := rfl
@[simp] theorem State.raise_buf (s : State) (e : IrqEvent) : (s.raise e).buf = s.buf := rfl
@[simp] theorem State.raise_spec (s : State) (e : IrqEvent) : (s.raise e).spec = s.spec := rfl
@[simp] theorem State.raise_astate (s : State) (e : IrqEvent) : (s.raise e).astate = s.astate := rfl
@[simp] theorem State.raise_rstate (s : State) (e : IrqEvent) : (s.raise e).rstate = s.rstate := rfl
@[simp] theorem State.raise_tickReq (s : State) (e : IrqEvent) : (s.raise e).tickReq = s.tickReq := rfl
@[simp] theorem State.raise_prepared (s : State) (e : IrqEvent) : (s.raise e).prepared = s.prepared := rfl
@[simp] theorem State.raise_lastErr (s : State) (e : IrqEvent) : (s.raise e).lastErr = s.lastErr := rfl
@[simp] theorem State.raise_resp (s : State) (e : IrqEvent) : (s.raise e).resp = s.resp := rfl
@[simp] theorem State.raise_inputs (s : State) (e : IrqEvent) : (s.raise e).inputs = s.inputs := rfl
@[simp] theorem State.raise_clock (s : State) (e : IrqEvent) : (s.raise e).clock = s.clock := rfl
@[simp] theorem State.raise_epoch (s : State) (e : IrqEvent) : (s.raise e).epoch = s.epoch := rfl
@[simp] theorem State.raise_ch (s : State) (e : IrqEvent) (d : Chan) : (s.raise e).ch d = s.ch d := by cases d <;> rfl

/-! ### `State.recordError` -/

@[simp] theorem State.recordError_irqStatus (s : State) (code : ErrCode) (e : IrqEvent) : (s.recordError code e).irqStatus = setBit s.irqStatus e.bit true := rfl
@[simp] theorem State.recordError_irqEnable (s : State) (code : ErrCode) (e : IrqEvent) : (s.recordError code e).irqEnable = s.irqEnable := rfl
@[simp] theorem State.recordError_inCh (s : State) (code : ErrCode) (e : IrqEvent) : (s.recordError code e).inCh = s.inCh := rfl
@[simp] theorem State.recordError_anEn (s : State) (code : ErrCode) (e : IrqEvent) : (s.recordError code e).anEn = s.anEn := rfl
@[simp] theorem State.recordError_win (s : State) (code : ErrCode) (e : IrqEvent) : (s.recordError code e).win = s.win := rfl
@[simp] theorem State.recordError_pchg (s : State) (code : ErrCode) (e : IrqEvent) : (s.recordError code e).pchg = s.pchg := rfl
@[simp] theorem State.recordError_sampleRate (s : State) (code : ErrCode) (e : IrqEvent) : (s.recordError code e).sampleRate = s.sampleRate := rfl
@[simp] theorem State.recordError_blkMax (s : State) (code : ErrCode) (e : IrqEvent) : (s.recordError code e).blkMax = s.blkMax := rfl
@[simp] theorem State.recordError_fftSel (s : State) (code : ErrCode) (e : IrqEvent) : (s.recordError code e).fftSel = s.fftSel := rfl
@[simp] theorem State.recordError_frameSize (s : State) (code : ErrCode) (e : IrqEvent) : (s.recordError code e).frameSize = s.frameSize := rfl
@[simp] theorem State.recordError_bypass (s : State) (code : ErrCode) (e : IrqEvent) : (s.recordError code e).bypass = s.bypass := rfl
@[simp] theorem State.recordError_lcCfg (s : State) (code : ErrCode) (e : IrqEvent) : (s.recordError code e).lcCfg = s.lcCfg := rfl
@[simp] theorem State.recordError_hcCfg (s : State) (code : ErrCode) (e : IrqEvent) : (s.recordError code e).hcCfg = s.hcCfg := rfl
@[simp] theorem State.recordError_dbFloor (s : State) (code : ErrCode) (e : IrqEvent) : (s.recordError code e).dbFloor = s.dbFloor := rfl
@[simp] theorem State.recordError_tickPeriod (s : State) (code : ErrCode) (e : IrqEvent) : (s.recordError code e).tickPeriod = s.tickPeriod := rfl
@[simp] theorem State.recordError_tcnt (s : State) (code : ErrCode) (e : IrqEvent) : (s.recordError code e).tcnt = s.tcnt := rfl
@[simp] theorem State.recordError_blkCnt (s : State) (code : ErrCode) (e : IrqEvent) : (s.recordError code e).blkCnt = s.blkCnt := rfl
@[simp] theorem State.recordError_actFftSize (s : State) (code : ErrCode) (e : IrqEvent) : (s.recordError code e).actFftSize = s.actFftSize := rfl
@[simp] theorem State.recordError_actFrameSize (s : State) (code : ErrCode) (e : IrqEvent) : (s.recordError code e).actFrameSize = s.actFrameSize := rfl
@[simp] theorem State.recordError_actBlkMax (s : State) (code : ErrCode) (e : IrqEvent) : (s.recordError code e).actBlkMax = s.actBlkMax := rfl
@[simp] theorem State.recordError_shCoef (s : State) (code : ErrCode) (e : IrqEvent) : (s.recordError code e).shCoef = s.shCoef := rfl
@[simp] theorem State.recordError_actCoef (s : State) (code : ErrCode) (e : IrqEvent) : (s.recordError code e).actCoef = s.actCoef := rfl
@[simp] theorem State.recordError_actByp (s : State) (code : ErrCode) (e : IrqEvent) : (s.recordError code e).actByp = s.actByp := rfl
@[simp] theorem State.recordError_actLcSub (s : State) (code : ErrCode) (e : IrqEvent) : (s.recordError code e).actLcSub = s.actLcSub := rfl
@[simp] theorem State.recordError_actHcSub (s : State) (code : ErrCode) (e : IrqEvent) : (s.recordError code e).actHcSub = s.actHcSub := rfl
@[simp] theorem State.recordError_chL (s : State) (code : ErrCode) (e : IrqEvent) : (s.recordError code e).chL = s.chL := rfl
@[simp] theorem State.recordError_chR (s : State) (code : ErrCode) (e : IrqEvent) : (s.recordError code e).chR = s.chR := rfl
@[simp] theorem State.recordError_buf (s : State) (code : ErrCode) (e : IrqEvent) : (s.recordError code e).buf = s.buf := rfl
@[simp] theorem State.recordError_spec (s : State) (code : ErrCode) (e : IrqEvent) : (s.recordError code e).spec = s.spec := rfl
@[simp] theorem State.recordError_astate (s : State) (code : ErrCode) (e : IrqEvent) : (s.recordError code e).astate = s.astate := rfl
@[simp] theorem State.recordError_rstate (s : State) (code : ErrCode) (e : IrqEvent) : (s.recordError code e).rstate = s.rstate := rfl
@[simp] theorem State.recordError_tickReq (s : State) (code : ErrCode) (e : IrqEvent) : (s.recordError code e).tickReq = s.tickReq := rfl
@[simp] theorem State.recordError_prepared (s : State) (code : ErrCode) (e : IrqEvent) : (s.recordError code e).prepared = s.prepared := rfl
@[simp] theorem State.recordError_lastErr (s : State) (code : ErrCode) (e : IrqEvent) : (s.recordError code e).lastErr = code := rfl
@[simp] theorem State.recordError_resp (s : State) (code : ErrCode) (e : IrqEvent) : (s.recordError code e).resp = s.resp := rfl
@[simp] theorem State.recordError_inputs (s : State) (code : ErrCode) (e : IrqEvent) : (s.recordError code e).inputs = s.inputs := rfl
@[simp] theorem State.recordError_clock (s : State) (code : ErrCode) (e : IrqEvent) : (s.recordError code e).clock = s.clock := rfl
@[simp] theorem State.recordError_epoch (s : State) (code : ErrCode) (e : IrqEvent) : (s.recordError code e).epoch = s.epoch := rfl
@[simp] theorem State.recordError_ch (s : State) (code : ErrCode) (e : IrqEvent) (d : Chan) : (s.recordError code e).ch d = s.ch d := by cases d <;> rfl

/-! ### `State.cmdError` -/

@[simp] theorem State.cmdError_irqStatus (s : State) (code : ErrCode) : (s.cmdError code).irqStatus = setBit s.irqStatus 2 true := rfl
@[simp] theorem State.cmdError_irqEnable (s : State) (code : ErrCode) : (s.cmdError code).irqEnable = s.irqEnable := rfl
@[simp] theorem State.cmdError_inCh (s : State) (code : ErrCode) : (s.cmdError code).inCh = s.inCh := rfl
@[simp] theorem State.cmdError_anEn (s : State) (code : ErrCode) : (s.cmdError code).anEn = s.anEn := rfl
@[simp] theorem State.cmdError_win (s : State) (code : ErrCode) : (s.cmdError code).win = s.win := rfl
@[simp] theorem State.cmdError_pchg (s : State) (code : ErrCode) : (s.cmdError code).pchg = s.pchg := rfl
@[simp] theorem State.cmdError_sampleRate (s : State) (code : ErrCode) : (s.cmdError code).sampleRate = s.sampleRate := rfl
@[simp] theorem State.cmdError_blkMax (s : State) (code : ErrCode) : (s.cmdError code).blkMax = s.blkMax := rfl
@[simp] theorem State.cmdError_fftSel (s : State) (code : ErrCode) : (s.cmdError code).fftSel = s.fftSel := rfl
@[simp] theorem State.cmdError_frameSize (s : State) (code : ErrCode) : (s.cmdError code).frameSize = s.frameSize := rfl
@[simp] theorem State.cmdError_bypass (s : State) (code : ErrCode) : (s.cmdError code).bypass = s.bypass := rfl
@[simp] theorem State.cmdError_lcCfg (s : State) (code : ErrCode) : (s.cmdError code).lcCfg = s.lcCfg := rfl
@[simp] theorem State.cmdError_hcCfg (s : State) (code : ErrCode) : (s.cmdError code).hcCfg = s.hcCfg := rfl
@[simp] theorem State.cmdError_dbFloor (s : State) (code : ErrCode) : (s.cmdError code).dbFloor = s.dbFloor := rfl
@[simp] theorem State.cmdError_tickPeriod (s : State) (code : ErrCode) : (s.cmdError code).tickPeriod = s.tickPeriod := rfl
@[simp] theorem State.cmdError_tcnt (s : State) (code : ErrCode) : (s.cmdError code).tcnt = s.tcnt := rfl
@[simp] theorem State.cmdError_blkCnt (s : State) (code : ErrCode) : (s.cmdError code).blkCnt = s.blkCnt := rfl
@[simp] theorem State.cmdError_actFftSize (s : State) (code : ErrCode) : (s.cmdError code).actFftSize = s.actFftSize := rfl
@[simp] theorem State.cmdError_actFrameSize (s : State) (code : ErrCode) : (s.cmdError code).actFrameSize = s.actFrameSize := rfl
@[simp] theorem State.cmdError_actBlkMax (s : State) (code : ErrCode) : (s.cmdError code).actBlkMax = s.actBlkMax := rfl
@[simp] theorem State.cmdError_shCoef (s : State) (code : ErrCode) : (s.cmdError code).shCoef = s.shCoef := rfl
@[simp] theorem State.cmdError_actCoef (s : State) (code : ErrCode) : (s.cmdError code).actCoef = s.actCoef := rfl
@[simp] theorem State.cmdError_actByp (s : State) (code : ErrCode) : (s.cmdError code).actByp = s.actByp := rfl
@[simp] theorem State.cmdError_actLcSub (s : State) (code : ErrCode) : (s.cmdError code).actLcSub = s.actLcSub := rfl
@[simp] theorem State.cmdError_actHcSub (s : State) (code : ErrCode) : (s.cmdError code).actHcSub = s.actHcSub := rfl
@[simp] theorem State.cmdError_chL (s : State) (code : ErrCode) : (s.cmdError code).chL = s.chL := rfl
@[simp] theorem State.cmdError_chR (s : State) (code : ErrCode) : (s.cmdError code).chR = s.chR := rfl
@[simp] theorem State.cmdError_buf (s : State) (code : ErrCode) : (s.cmdError code).buf = s.buf := rfl
@[simp] theorem State.cmdError_spec (s : State) (code : ErrCode) : (s.cmdError code).spec = s.spec := rfl
@[simp] theorem State.cmdError_astate (s : State) (code : ErrCode) : (s.cmdError code).astate = s.astate := rfl
@[simp] theorem State.cmdError_rstate (s : State) (code : ErrCode) : (s.cmdError code).rstate = s.rstate := rfl
@[simp] theorem State.cmdError_tickReq (s : State) (code : ErrCode) : (s.cmdError code).tickReq = s.tickReq := rfl
@[simp] theorem State.cmdError_prepared (s : State) (code : ErrCode) : (s.cmdError code).prepared = s.prepared := rfl
@[simp] theorem State.cmdError_lastErr (s : State) (code : ErrCode) : (s.cmdError code).lastErr = code := rfl
@[simp] theorem State.cmdError_resp (s : State) (code : ErrCode) : (s.cmdError code).resp = .write true := rfl
@[simp] theorem State.cmdError_inputs (s : State) (code : ErrCode) : (s.cmdError code).inputs = s.inputs := rfl
@[simp] theorem State.cmdError_clock (s : State) (code : ErrCode) : (s.cmdError code).clock = s.clock := rfl
@[simp] theorem State.cmdError_epoch (s : State) (code : ErrCode) : (s.cmdError code).epoch = s.epoch := rfl
@[simp] theorem State.cmdError_ch (s : State) (code : ErrCode) (d : Chan) : (s.cmdError code).ch d = s.ch d := by cases d <;> rfl

/-! ### `State.writeError` -/

@[simp] theorem State.writeError_irqStatus (s : State) (code : ErrCode) : (s.writeError code).irqStatus = setBit s.irqStatus 3 true := rfl
@[simp] theorem State.writeError_irqEnable (s : State) (code : ErrCode) : (s.writeError code).irqEnable = s.irqEnable := rfl
@[simp] theorem State.writeError_inCh (s : State) (code : ErrCode) : (s.writeError code).inCh = s.inCh := rfl
@[simp] theorem State.writeError_anEn (s : State) (code : ErrCode) : (s.writeError code).anEn = s.anEn := rfl
@[simp] theorem State.writeError_win (s : State) (code : ErrCode) : (s.writeError code).win = s.win := rfl
@[simp] theorem State.writeError_pchg (s : State) (code : ErrCode) : (s.writeError code).pchg = s.pchg := rfl
@[simp] theorem State.writeError_sampleRate (s : State) (code : ErrCode) : (s.writeError code).sampleRate = s.sampleRate := rfl
@[simp] theorem State.writeError_blkMax (s : State) (code : ErrCode) : (s.writeError code).blkMax = s.blkMax := rfl
@[simp] theorem State.writeError_fftSel (s : State) (code : ErrCode) : (s.writeError code).fftSel = s.fftSel := rfl
@[simp] theorem State.writeError_frameSize (s : State) (code : ErrCode) : (s.writeError code).frameSize = s.frameSize := rfl
@[simp] theorem State.writeError_bypass (s : State) (code : ErrCode) : (s.writeError code).bypass = s.bypass := rfl
@[simp] theorem State.writeError_lcCfg (s : State) (code : ErrCode) : (s.writeError code).lcCfg = s.lcCfg := rfl
@[simp] theorem State.writeError_hcCfg (s : State) (code : ErrCode) : (s.writeError code).hcCfg = s.hcCfg := rfl
@[simp] theorem State.writeError_dbFloor (s : State) (code : ErrCode) : (s.writeError code).dbFloor = s.dbFloor := rfl
@[simp] theorem State.writeError_tickPeriod (s : State) (code : ErrCode) : (s.writeError code).tickPeriod = s.tickPeriod := rfl
@[simp] theorem State.writeError_tcnt (s : State) (code : ErrCode) : (s.writeError code).tcnt = s.tcnt := rfl
@[simp] theorem State.writeError_blkCnt (s : State) (code : ErrCode) : (s.writeError code).blkCnt = s.blkCnt := rfl
@[simp] theorem State.writeError_actFftSize (s : State) (code : ErrCode) : (s.writeError code).actFftSize = s.actFftSize := rfl
@[simp] theorem State.writeError_actFrameSize (s : State) (code : ErrCode) : (s.writeError code).actFrameSize = s.actFrameSize := rfl
@[simp] theorem State.writeError_actBlkMax (s : State) (code : ErrCode) : (s.writeError code).actBlkMax = s.actBlkMax := rfl
@[simp] theorem State.writeError_shCoef (s : State) (code : ErrCode) : (s.writeError code).shCoef = s.shCoef := rfl
@[simp] theorem State.writeError_actCoef (s : State) (code : ErrCode) : (s.writeError code).actCoef = s.actCoef := rfl
@[simp] theorem State.writeError_actByp (s : State) (code : ErrCode) : (s.writeError code).actByp = s.actByp := rfl
@[simp] theorem State.writeError_actLcSub (s : State) (code : ErrCode) : (s.writeError code).actLcSub = s.actLcSub := rfl
@[simp] theorem State.writeError_actHcSub (s : State) (code : ErrCode) : (s.writeError code).actHcSub = s.actHcSub := rfl
@[simp] theorem State.writeError_chL (s : State) (code : ErrCode) : (s.writeError code).chL = s.chL := rfl
@[simp] theorem State.writeError_chR (s : State) (code : ErrCode) : (s.writeError code).chR = s.chR := rfl
@[simp] theorem State.writeError_buf (s : State) (code : ErrCode) : (s.writeError code).buf = s.buf := rfl
@[simp] theorem State.writeError_spec (s : State) (code : ErrCode) : (s.writeError code).spec = s.spec := rfl
@[simp] theorem State.writeError_astate (s : State) (code : ErrCode) : (s.writeError code).astate = s.astate := rfl
@[simp] theorem State.writeError_rstate (s : State) (code : ErrCode) : (s.writeError code).rstate = s.rstate := rfl
@[simp] theorem State.writeError_tickReq (s : State) (code : ErrCode) : (s.writeError code).tickReq = s.tickReq := rfl
@[simp] theorem State.writeError_prepared (s : State) (code : ErrCode) : (s.writeError code).prepared = s.prepared := rfl
@[simp] theorem State.writeError_lastErr (s : State) (code : ErrCode) : (s.writeError code).lastErr = code := rfl
@[simp] theorem State.writeError_resp (s : State) (code : ErrCode) : (s.writeError code).resp = .write true := rfl
@[simp] theorem State.writeError_inputs (s : State) (code : ErrCode) : (s.writeError code).inputs = s.inputs := rfl
@[simp] theorem State.writeError_clock (s : State) (code : ErrCode) : (s.writeError code).clock = s.clock := rfl
@[simp] theorem State.writeError_epoch (s : State) (code : ErrCode) : (s.writeError code).epoch = s.epoch := rfl
@[simp] theorem State.writeError_ch (s : State) (code : ErrCode) (d : Chan) : (s.writeError code).ch d = s.ch d := by cases d <;> rfl

/-! ### `State.readError` -/

@[simp] theorem State.readError_irqStatus (s : State) (code : ErrCode) : (s.readError code).irqStatus = setBit s.irqStatus 3 true := rfl
@[simp] theorem State.readError_irqEnable (s : State) (code : ErrCode) : (s.readError code).irqEnable = s.irqEnable := rfl
@[simp] theorem State.readError_inCh (s : State) (code : ErrCode) : (s.readError code).inCh = s.inCh := rfl
@[simp] theorem State.readError_anEn (s : State) (code : ErrCode) : (s.readError code).anEn = s.anEn := rfl
@[simp] theorem State.readError_win (s : State) (code : ErrCode) : (s.readError code).win = s.win := rfl
@[simp] theorem State.readError_pchg (s : State) (code : ErrCode) : (s.readError code).pchg = s.pchg := rfl
@[simp] theorem State.readError_sampleRate (s : State) (code : ErrCode) : (s.readError code).sampleRate = s.sampleRate := rfl
@[simp] theorem State.readError_blkMax (s : State) (code : ErrCode) : (s.readError code).blkMax = s.blkMax := rfl
@[simp] theorem State.readError_fftSel (s : State) (code : ErrCode) : (s.readError code).fftSel = s.fftSel := rfl
@[simp] theorem State.readError_frameSize (s : State) (code : ErrCode) : (s.readError code).frameSize = s.frameSize := rfl
@[simp] theorem State.readError_bypass (s : State) (code : ErrCode) : (s.readError code).bypass = s.bypass := rfl
@[simp] theorem State.readError_lcCfg (s : State) (code : ErrCode) : (s.readError code).lcCfg = s.lcCfg := rfl
@[simp] theorem State.readError_hcCfg (s : State) (code : ErrCode) : (s.readError code).hcCfg = s.hcCfg := rfl
@[simp] theorem State.readError_dbFloor (s : State) (code : ErrCode) : (s.readError code).dbFloor = s.dbFloor := rfl
@[simp] theorem State.readError_tickPeriod (s : State) (code : ErrCode) : (s.readError code).tickPeriod = s.tickPeriod := rfl
@[simp] theorem State.readError_tcnt (s : State) (code : ErrCode) : (s.readError code).tcnt = s.tcnt := rfl
@[simp] theorem State.readError_blkCnt (s : State) (code : ErrCode) : (s.readError code).blkCnt = s.blkCnt := rfl
@[simp] theorem State.readError_actFftSize (s : State) (code : ErrCode) : (s.readError code).actFftSize = s.actFftSize := rfl
@[simp] theorem State.readError_actFrameSize (s : State) (code : ErrCode) : (s.readError code).actFrameSize = s.actFrameSize := rfl
@[simp] theorem State.readError_actBlkMax (s : State) (code : ErrCode) : (s.readError code).actBlkMax = s.actBlkMax := rfl
@[simp] theorem State.readError_shCoef (s : State) (code : ErrCode) : (s.readError code).shCoef = s.shCoef := rfl
@[simp] theorem State.readError_actCoef (s : State) (code : ErrCode) : (s.readError code).actCoef = s.actCoef := rfl
@[simp] theorem State.readError_actByp (s : State) (code : ErrCode) : (s.readError code).actByp = s.actByp := rfl
@[simp] theorem State.readError_actLcSub (s : State) (code : ErrCode) : (s.readError code).actLcSub = s.actLcSub := rfl
@[simp] theorem State.readError_actHcSub (s : State) (code : ErrCode) : (s.readError code).actHcSub = s.actHcSub := rfl
@[simp] theorem State.readError_chL (s : State) (code : ErrCode) : (s.readError code).chL = s.chL := rfl
@[simp] theorem State.readError_chR (s : State) (code : ErrCode) : (s.readError code).chR = s.chR := rfl
@[simp] theorem State.readError_buf (s : State) (code : ErrCode) : (s.readError code).buf = s.buf := rfl
@[simp] theorem State.readError_spec (s : State) (code : ErrCode) : (s.readError code).spec = s.spec := rfl
@[simp] theorem State.readError_astate (s : State) (code : ErrCode) : (s.readError code).astate = s.astate := rfl
@[simp] theorem State.readError_rstate (s : State) (code : ErrCode) : (s.readError code).rstate = s.rstate := rfl
@[simp] theorem State.readError_tickReq (s : State) (code : ErrCode) : (s.readError code).tickReq = s.tickReq := rfl
@[simp] theorem State.readError_prepared (s : State) (code : ErrCode) : (s.readError code).prepared = s.prepared := rfl
@[simp] theorem State.readError_lastErr (s : State) (code : ErrCode) : (s.readError code).lastErr = code := rfl
@[simp] theorem State.readError_resp (s : State) (code : ErrCode) : (s.readError code).resp = .read 0 true := rfl
@[simp] theorem State.readError_inputs (s : State) (code : ErrCode) : (s.readError code).inputs = s.inputs := rfl
@[simp] theorem State.readError_clock (s : State) (code : ErrCode) : (s.readError code).clock = s.clock := rfl
@[simp] theorem State.readError_epoch (s : State) (code : ErrCode) : (s.readError code).epoch = s.epoch := rfl
@[simp] theorem State.readError_ch (s : State) (code : ErrCode) (d : Chan) : (s.readError code).ch d = s.ch d := by cases d <;> rfl

/-! ### `State.writeDone` -/

@[simp] theorem State.writeDone_irqStatus (s : State) : (s.writeDone).irqStatus = s.irqStatus := rfl
@[simp] theorem State.writeDone_irqEnable (s : State) : (s.writeDone).irqEnable = s.irqEnable := rfl
@[simp] theorem State.writeDone_inCh (s : State) : (s.writeDone).inCh = s.inCh := rfl
@[simp] theorem State.writeDone_anEn (s : State) : (s.writeDone).anEn = s.anEn := rfl
@[simp] theorem State.writeDone_win (s : State) : (s.writeDone).win = s.win := rfl
@[simp] theorem State.writeDone_pchg (s : State) : (s.writeDone).pchg = s.pchg := rfl
@[simp] theorem State.writeDone_sampleRate (s : State) : (s.writeDone).sampleRate = s.sampleRate := rfl
@[simp] theorem State.writeDone_blkMax (s : State) : (s.writeDone).blkMax = s.blkMax := rfl
@[simp] theorem State.writeDone_fftSel (s : State) : (s.writeDone).fftSel = s.fftSel := rfl
@[simp] theorem State.writeDone_frameSize (s : State) : (s.writeDone).frameSize = s.frameSize := rfl
@[simp] theorem State.writeDone_bypass (s : State) : (s.writeDone).bypass = s.bypass := rfl
@[simp] theorem State.writeDone_lcCfg (s : State) : (s.writeDone).lcCfg = s.lcCfg := rfl
@[simp] theorem State.writeDone_hcCfg (s : State) : (s.writeDone).hcCfg = s.hcCfg := rfl
@[simp] theorem State.writeDone_dbFloor (s : State) : (s.writeDone).dbFloor = s.dbFloor := rfl
@[simp] theorem State.writeDone_tickPeriod (s : State) : (s.writeDone).tickPeriod = s.tickPeriod := rfl
@[simp] theorem State.writeDone_tcnt (s : State) : (s.writeDone).tcnt = s.tcnt := rfl
@[simp] theorem State.writeDone_blkCnt (s : State) : (s.writeDone).blkCnt = s.blkCnt := rfl
@[simp] theorem State.writeDone_actFftSize (s : State) : (s.writeDone).actFftSize = s.actFftSize := rfl
@[simp] theorem State.writeDone_actFrameSize (s : State) : (s.writeDone).actFrameSize = s.actFrameSize := rfl
@[simp] theorem State.writeDone_actBlkMax (s : State) : (s.writeDone).actBlkMax = s.actBlkMax := rfl
@[simp] theorem State.writeDone_shCoef (s : State) : (s.writeDone).shCoef = s.shCoef := rfl
@[simp] theorem State.writeDone_actCoef (s : State) : (s.writeDone).actCoef = s.actCoef := rfl
@[simp] theorem State.writeDone_actByp (s : State) : (s.writeDone).actByp = s.actByp := rfl
@[simp] theorem State.writeDone_actLcSub (s : State) : (s.writeDone).actLcSub = s.actLcSub := rfl
@[simp] theorem State.writeDone_actHcSub (s : State) : (s.writeDone).actHcSub = s.actHcSub := rfl
@[simp] theorem State.writeDone_chL (s : State) : (s.writeDone).chL = s.chL := rfl
@[simp] theorem State.writeDone_chR (s : State) : (s.writeDone).chR = s.chR := rfl
@[simp] theorem State.writeDone_buf (s : State) : (s.writeDone).buf = s.buf := rfl
@[simp] theorem State.writeDone_spec (s : State) : (s.writeDone).spec = s.spec := rfl
@[simp] theorem State.writeDone_astate (s : State) : (s.writeDone).astate = s.astate := rfl
@[simp] theorem State.writeDone_rstate (s : State) : (s.writeDone).rstate = s.rstate := rfl
@[simp] theorem State.writeDone_tickReq (s : State) : (s.writeDone).tickReq = s.tickReq := rfl
@[simp] theorem State.writeDone_prepared (s : State) : (s.writeDone).prepared = s.prepared := rfl
@[simp] theorem State.writeDone_lastErr (s : State) : (s.writeDone).lastErr = s.lastErr := rfl
@[simp] theorem State.writeDone_resp (s : State) : (s.writeDone).resp = .write false := rfl
@[simp] theorem State.writeDone_inputs (s : State) : (s.writeDone).inputs = s.inputs := rfl
@[simp] theorem State.writeDone_clock (s : State) : (s.writeDone).clock = s.clock := rfl
@[simp] theorem State.writeDone_epoch (s : State) : (s.writeDone).epoch = s.epoch := rfl
@[simp] theorem State.writeDone_ch (s : State) (d : Chan) : (s.writeDone).ch d = s.ch d := by cases d <;> rfl

/-! ### `State.readDone` -/

@[simp] theorem State.readDone_irqStatus (s : State) (v : Word) : (s.readDone v).irqStatus = s.irqStatus := rfl
@[simp] theorem State.readDone_irqEnable (s : State) (v : Word) : (s.readDone v).irqEnable = s.irqEnable := rfl
@[simp] theorem State.readDone_inCh (s : State) (v : Word) : (s.readDone v).inCh = s.inCh := rfl
@[simp] theorem State.readDone_anEn (s : State) (v : Word) : (s.readDone v).anEn = s.anEn := rfl
@[simp] theorem State.readDone_win (s : State) (v : Word) : (s.readDone v).win = s.win := rfl
@[simp] theorem State.readDone_pchg (s : State) (v : Word) : (s.readDone v).pchg = s.pchg := rfl
@[simp] theorem State.readDone_sampleRate (s : State) (v : Word) : (s.readDone v).sampleRate = s.sampleRate := rfl
@[simp] theorem State.readDone_blkMax (s : State) (v : Word) : (s.readDone v).blkMax = s.blkMax := rfl
@[simp] theorem State.readDone_fftSel (s : State) (v : Word) : (s.readDone v).fftSel = s.fftSel := rfl
@[simp] theorem State.readDone_frameSize (s : State) (v : Word) : (s.readDone v).frameSize = s.frameSize := rfl
@[simp] theorem State.readDone_bypass (s : State) (v : Word) : (s.readDone v).bypass = s.bypass := rfl
@[simp] theorem State.readDone_lcCfg (s : State) (v : Word) : (s.readDone v).lcCfg = s.lcCfg := rfl
@[simp] theorem State.readDone_hcCfg (s : State) (v : Word) : (s.readDone v).hcCfg = s.hcCfg := rfl
@[simp] theorem State.readDone_dbFloor (s : State) (v : Word) : (s.readDone v).dbFloor = s.dbFloor := rfl
@[simp] theorem State.readDone_tickPeriod (s : State) (v : Word) : (s.readDone v).tickPeriod = s.tickPeriod := rfl
@[simp] theorem State.readDone_tcnt (s : State) (v : Word) : (s.readDone v).tcnt = s.tcnt := rfl
@[simp] theorem State.readDone_blkCnt (s : State) (v : Word) : (s.readDone v).blkCnt = s.blkCnt := rfl
@[simp] theorem State.readDone_actFftSize (s : State) (v : Word) : (s.readDone v).actFftSize = s.actFftSize := rfl
@[simp] theorem State.readDone_actFrameSize (s : State) (v : Word) : (s.readDone v).actFrameSize = s.actFrameSize := rfl
@[simp] theorem State.readDone_actBlkMax (s : State) (v : Word) : (s.readDone v).actBlkMax = s.actBlkMax := rfl
@[simp] theorem State.readDone_shCoef (s : State) (v : Word) : (s.readDone v).shCoef = s.shCoef := rfl
@[simp] theorem State.readDone_actCoef (s : State) (v : Word) : (s.readDone v).actCoef = s.actCoef := rfl
@[simp] theorem State.readDone_actByp (s : State) (v : Word) : (s.readDone v).actByp = s.actByp := rfl
@[simp] theorem State.readDone_actLcSub (s : State) (v : Word) : (s.readDone v).actLcSub = s.actLcSub := rfl
@[simp] theorem State.readDone_actHcSub (s : State) (v : Word) : (s.readDone v).actHcSub = s.actHcSub := rfl
@[simp] theorem State.readDone_chL (s : State) (v : Word) : (s.readDone v).chL = s.chL := rfl
@[simp] theorem State.readDone_chR (s : State) (v : Word) : (s.readDone v).chR = s.chR := rfl
@[simp] theorem State.readDone_buf (s : State) (v : Word) : (s.readDone v).buf = s.buf := rfl
@[simp] theorem State.readDone_spec (s : State) (v : Word) : (s.readDone v).spec = s.spec := rfl
@[simp] theorem State.readDone_astate (s : State) (v : Word) : (s.readDone v).astate = s.astate := rfl
@[simp] theorem State.readDone_rstate (s : State) (v : Word) : (s.readDone v).rstate = s.rstate := rfl
@[simp] theorem State.readDone_tickReq (s : State) (v : Word) : (s.readDone v).tickReq = s.tickReq := rfl
@[simp] theorem State.readDone_prepared (s : State) (v : Word) : (s.readDone v).prepared = s.prepared := rfl
@[simp] theorem State.readDone_lastErr (s : State) (v : Word) : (s.readDone v).lastErr = s.lastErr := rfl
@[simp] theorem State.readDone_resp (s : State) (v : Word) : (s.readDone v).resp = .read v false := rfl
@[simp] theorem State.readDone_inputs (s : State) (v : Word) : (s.readDone v).inputs = s.inputs := rfl
@[simp] theorem State.readDone_clock (s : State) (v : Word) : (s.readDone v).clock = s.clock := rfl
@[simp] theorem State.readDone_epoch (s : State) (v : Word) : (s.readDone v).epoch = s.epoch := rfl
@[simp] theorem State.readDone_ch (s : State) (v : Word) (d : Chan) : (s.readDone v).ch d = s.ch d := by cases d <;> rfl

/-! ### `State.setBufWord` -/

@[simp] theorem State.setBufWord_irqStatus (s : State) (c : Chan) (j : Nat) (v : Word) : (s.setBufWord c j v).irqStatus = s.irqStatus := rfl
@[simp] theorem State.setBufWord_irqEnable (s : State) (c : Chan) (j : Nat) (v : Word) : (s.setBufWord c j v).irqEnable = s.irqEnable := rfl
@[simp] theorem State.setBufWord_inCh (s : State) (c : Chan) (j : Nat) (v : Word) : (s.setBufWord c j v).inCh = s.inCh := rfl
@[simp] theorem State.setBufWord_anEn (s : State) (c : Chan) (j : Nat) (v : Word) : (s.setBufWord c j v).anEn = s.anEn := rfl
@[simp] theorem State.setBufWord_win (s : State) (c : Chan) (j : Nat) (v : Word) : (s.setBufWord c j v).win = s.win := rfl
@[simp] theorem State.setBufWord_pchg (s : State) (c : Chan) (j : Nat) (v : Word) : (s.setBufWord c j v).pchg = s.pchg := rfl
@[simp] theorem State.setBufWord_sampleRate (s : State) (c : Chan) (j : Nat) (v : Word) : (s.setBufWord c j v).sampleRate = s.sampleRate := rfl
@[simp] theorem State.setBufWord_blkMax (s : State) (c : Chan) (j : Nat) (v : Word) : (s.setBufWord c j v).blkMax = s.blkMax := rfl
@[simp] theorem State.setBufWord_fftSel (s : State) (c : Chan) (j : Nat) (v : Word) : (s.setBufWord c j v).fftSel = s.fftSel := rfl
@[simp] theorem State.setBufWord_frameSize (s : State) (c : Chan) (j : Nat) (v : Word) : (s.setBufWord c j v).frameSize = s.frameSize := rfl
@[simp] theorem State.setBufWord_bypass (s : State) (c : Chan) (j : Nat) (v : Word) : (s.setBufWord c j v).bypass = s.bypass := rfl
@[simp] theorem State.setBufWord_lcCfg (s : State) (c : Chan) (j : Nat) (v : Word) : (s.setBufWord c j v).lcCfg = s.lcCfg := rfl
@[simp] theorem State.setBufWord_hcCfg (s : State) (c : Chan) (j : Nat) (v : Word) : (s.setBufWord c j v).hcCfg = s.hcCfg := rfl
@[simp] theorem State.setBufWord_dbFloor (s : State) (c : Chan) (j : Nat) (v : Word) : (s.setBufWord c j v).dbFloor = s.dbFloor := rfl
@[simp] theorem State.setBufWord_tickPeriod (s : State) (c : Chan) (j : Nat) (v : Word) : (s.setBufWord c j v).tickPeriod = s.tickPeriod := rfl
@[simp] theorem State.setBufWord_tcnt (s : State) (c : Chan) (j : Nat) (v : Word) : (s.setBufWord c j v).tcnt = s.tcnt := rfl
@[simp] theorem State.setBufWord_blkCnt (s : State) (c : Chan) (j : Nat) (v : Word) : (s.setBufWord c j v).blkCnt = s.blkCnt := rfl
@[simp] theorem State.setBufWord_actFftSize (s : State) (c : Chan) (j : Nat) (v : Word) : (s.setBufWord c j v).actFftSize = s.actFftSize := rfl
@[simp] theorem State.setBufWord_actFrameSize (s : State) (c : Chan) (j : Nat) (v : Word) : (s.setBufWord c j v).actFrameSize = s.actFrameSize := rfl
@[simp] theorem State.setBufWord_actBlkMax (s : State) (c : Chan) (j : Nat) (v : Word) : (s.setBufWord c j v).actBlkMax = s.actBlkMax := rfl
@[simp] theorem State.setBufWord_shCoef (s : State) (c : Chan) (j : Nat) (v : Word) : (s.setBufWord c j v).shCoef = s.shCoef := rfl
@[simp] theorem State.setBufWord_actCoef (s : State) (c : Chan) (j : Nat) (v : Word) : (s.setBufWord c j v).actCoef = s.actCoef := rfl
@[simp] theorem State.setBufWord_actByp (s : State) (c : Chan) (j : Nat) (v : Word) : (s.setBufWord c j v).actByp = s.actByp := rfl
@[simp] theorem State.setBufWord_actLcSub (s : State) (c : Chan) (j : Nat) (v : Word) : (s.setBufWord c j v).actLcSub = s.actLcSub := rfl
@[simp] theorem State.setBufWord_actHcSub (s : State) (c : Chan) (j : Nat) (v : Word) : (s.setBufWord c j v).actHcSub = s.actHcSub := rfl
@[simp] theorem State.setBufWord_chL (s : State) (c : Chan) (j : Nat) (v : Word) : (s.setBufWord c j v).chL = s.chL := rfl
@[simp] theorem State.setBufWord_chR (s : State) (c : Chan) (j : Nat) (v : Word) : (s.setBufWord c j v).chR = s.chR := rfl
@[simp] theorem State.setBufWord_buf (s : State) (c : Chan) (j : Nat) (v : Word) : (s.setBufWord c j v).buf = Memory.writeWord s.buf (bufAddr c j) v := rfl
@[simp] theorem State.setBufWord_spec (s : State) (c : Chan) (j : Nat) (v : Word) : (s.setBufWord c j v).spec = s.spec := rfl
@[simp] theorem State.setBufWord_astate (s : State) (c : Chan) (j : Nat) (v : Word) : (s.setBufWord c j v).astate = s.astate := rfl
@[simp] theorem State.setBufWord_rstate (s : State) (c : Chan) (j : Nat) (v : Word) : (s.setBufWord c j v).rstate = s.rstate := rfl
@[simp] theorem State.setBufWord_tickReq (s : State) (c : Chan) (j : Nat) (v : Word) : (s.setBufWord c j v).tickReq = s.tickReq := rfl
@[simp] theorem State.setBufWord_prepared (s : State) (c : Chan) (j : Nat) (v : Word) : (s.setBufWord c j v).prepared = s.prepared := rfl
@[simp] theorem State.setBufWord_lastErr (s : State) (c : Chan) (j : Nat) (v : Word) : (s.setBufWord c j v).lastErr = s.lastErr := rfl
@[simp] theorem State.setBufWord_resp (s : State) (c : Chan) (j : Nat) (v : Word) : (s.setBufWord c j v).resp = s.resp := rfl
@[simp] theorem State.setBufWord_inputs (s : State) (c : Chan) (j : Nat) (v : Word) : (s.setBufWord c j v).inputs = s.inputs := rfl
@[simp] theorem State.setBufWord_clock (s : State) (c : Chan) (j : Nat) (v : Word) : (s.setBufWord c j v).clock = s.clock := rfl
@[simp] theorem State.setBufWord_epoch (s : State) (c : Chan) (j : Nat) (v : Word) : (s.setBufWord c j v).epoch = s.epoch := rfl
@[simp] theorem State.setBufWord_ch (s : State) (c : Chan) (j : Nat) (v : Word) (d : Chan) : (s.setBufWord c j v).ch d = s.ch d := by cases d <;> rfl

/-! ### `State.setBufWords` -/

@[simp] theorem State.setBufWords_irqStatus (s : State) (c : Chan) (j : Nat) (vs : List Word) : (s.setBufWords c j vs).irqStatus = s.irqStatus := rfl
@[simp] theorem State.setBufWords_irqEnable (s : State) (c : Chan) (j : Nat) (vs : List Word) : (s.setBufWords c j vs).irqEnable = s.irqEnable := rfl
@[simp] theorem State.setBufWords_inCh (s : State) (c : Chan) (j : Nat) (vs : List Word) : (s.setBufWords c j vs).inCh = s.inCh := rfl
@[simp] theorem State.setBufWords_anEn (s : State) (c : Chan) (j : Nat) (vs : List Word) : (s.setBufWords c j vs).anEn = s.anEn := rfl
@[simp] theorem State.setBufWords_win (s : State) (c : Chan) (j : Nat) (vs : List Word) : (s.setBufWords c j vs).win = s.win := rfl
@[simp] theorem State.setBufWords_pchg (s : State) (c : Chan) (j : Nat) (vs : List Word) : (s.setBufWords c j vs).pchg = s.pchg := rfl
@[simp] theorem State.setBufWords_sampleRate (s : State) (c : Chan) (j : Nat) (vs : List Word) : (s.setBufWords c j vs).sampleRate = s.sampleRate := rfl
@[simp] theorem State.setBufWords_blkMax (s : State) (c : Chan) (j : Nat) (vs : List Word) : (s.setBufWords c j vs).blkMax = s.blkMax := rfl
@[simp] theorem State.setBufWords_fftSel (s : State) (c : Chan) (j : Nat) (vs : List Word) : (s.setBufWords c j vs).fftSel = s.fftSel := rfl
@[simp] theorem State.setBufWords_frameSize (s : State) (c : Chan) (j : Nat) (vs : List Word) : (s.setBufWords c j vs).frameSize = s.frameSize := rfl
@[simp] theorem State.setBufWords_bypass (s : State) (c : Chan) (j : Nat) (vs : List Word) : (s.setBufWords c j vs).bypass = s.bypass := rfl
@[simp] theorem State.setBufWords_lcCfg (s : State) (c : Chan) (j : Nat) (vs : List Word) : (s.setBufWords c j vs).lcCfg = s.lcCfg := rfl
@[simp] theorem State.setBufWords_hcCfg (s : State) (c : Chan) (j : Nat) (vs : List Word) : (s.setBufWords c j vs).hcCfg = s.hcCfg := rfl
@[simp] theorem State.setBufWords_dbFloor (s : State) (c : Chan) (j : Nat) (vs : List Word) : (s.setBufWords c j vs).dbFloor = s.dbFloor := rfl
@[simp] theorem State.setBufWords_tickPeriod (s : State) (c : Chan) (j : Nat) (vs : List Word) : (s.setBufWords c j vs).tickPeriod = s.tickPeriod := rfl
@[simp] theorem State.setBufWords_tcnt (s : State) (c : Chan) (j : Nat) (vs : List Word) : (s.setBufWords c j vs).tcnt = s.tcnt := rfl
@[simp] theorem State.setBufWords_blkCnt (s : State) (c : Chan) (j : Nat) (vs : List Word) : (s.setBufWords c j vs).blkCnt = s.blkCnt := rfl
@[simp] theorem State.setBufWords_actFftSize (s : State) (c : Chan) (j : Nat) (vs : List Word) : (s.setBufWords c j vs).actFftSize = s.actFftSize := rfl
@[simp] theorem State.setBufWords_actFrameSize (s : State) (c : Chan) (j : Nat) (vs : List Word) : (s.setBufWords c j vs).actFrameSize = s.actFrameSize := rfl
@[simp] theorem State.setBufWords_actBlkMax (s : State) (c : Chan) (j : Nat) (vs : List Word) : (s.setBufWords c j vs).actBlkMax = s.actBlkMax := rfl
@[simp] theorem State.setBufWords_shCoef (s : State) (c : Chan) (j : Nat) (vs : List Word) : (s.setBufWords c j vs).shCoef = s.shCoef := rfl
@[simp] theorem State.setBufWords_actCoef (s : State) (c : Chan) (j : Nat) (vs : List Word) : (s.setBufWords c j vs).actCoef = s.actCoef := rfl
@[simp] theorem State.setBufWords_actByp (s : State) (c : Chan) (j : Nat) (vs : List Word) : (s.setBufWords c j vs).actByp = s.actByp := rfl
@[simp] theorem State.setBufWords_actLcSub (s : State) (c : Chan) (j : Nat) (vs : List Word) : (s.setBufWords c j vs).actLcSub = s.actLcSub := rfl
@[simp] theorem State.setBufWords_actHcSub (s : State) (c : Chan) (j : Nat) (vs : List Word) : (s.setBufWords c j vs).actHcSub = s.actHcSub := rfl
@[simp] theorem State.setBufWords_chL (s : State) (c : Chan) (j : Nat) (vs : List Word) : (s.setBufWords c j vs).chL = s.chL := rfl
@[simp] theorem State.setBufWords_chR (s : State) (c : Chan) (j : Nat) (vs : List Word) : (s.setBufWords c j vs).chR = s.chR := rfl
@[simp] theorem State.setBufWords_buf (s : State) (c : Chan) (j : Nat) (vs : List Word) : (s.setBufWords c j vs).buf = Memory.writeWords s.buf (bufAddr c j) vs := rfl
@[simp] theorem State.setBufWords_spec (s : State) (c : Chan) (j : Nat) (vs : List Word) : (s.setBufWords c j vs).spec = s.spec := rfl
@[simp] theorem State.setBufWords_astate (s : State) (c : Chan) (j : Nat) (vs : List Word) : (s.setBufWords c j vs).astate = s.astate := rfl
@[simp] theorem State.setBufWords_rstate (s : State) (c : Chan) (j : Nat) (vs : List Word) : (s.setBufWords c j vs).rstate = s.rstate := rfl
@[simp] theorem State.setBufWords_tickReq (s : State) (c : Chan) (j : Nat) (vs : List Word) : (s.setBufWords c j vs).tickReq = s.tickReq := rfl
@[simp] theorem State.setBufWords_prepared (s : State) (c : Chan) (j : Nat) (vs : List Word) : (s.setBufWords c j vs).prepared = s.prepared := rfl
@[simp] theorem State.setBufWords_lastErr (s : State) (c : Chan) (j : Nat) (vs : List Word) : (s.setBufWords c j vs).lastErr = s.lastErr := rfl
@[simp] theorem State.setBufWords_resp (s : State) (c : Chan) (j : Nat) (vs : List Word) : (s.setBufWords c j vs).resp = s.resp := rfl
@[simp] theorem State.setBufWords_inputs (s : State) (c : Chan) (j : Nat) (vs : List Word) : (s.setBufWords c j vs).inputs = s.inputs := rfl
@[simp] theorem State.setBufWords_clock (s : State) (c : Chan) (j : Nat) (vs : List Word) : (s.setBufWords c j vs).clock = s.clock := rfl
@[simp] theorem State.setBufWords_epoch (s : State) (c : Chan) (j : Nat) (vs : List Word) : (s.setBufWords c j vs).epoch = s.epoch := rfl
@[simp] theorem State.setBufWords_ch (s : State) (c : Chan) (j : Nat) (vs : List Word) (d : Chan) : (s.setBufWords c j vs).ch d = s.ch d := by cases d <;> rfl

/-! ### `State.setCh` -/

@[simp] theorem State.setCh_irqStatus (s : State) (c : Chan) (x : Channel) : (s.setCh c x).irqStatus = s.irqStatus := by cases c <;> rfl
@[simp] theorem State.setCh_irqEnable (s : State) (c : Chan) (x : Channel) : (s.setCh c x).irqEnable = s.irqEnable := by cases c <;> rfl
@[simp] theorem State.setCh_inCh (s : State) (c : Chan) (x : Channel) : (s.setCh c x).inCh = s.inCh := by cases c <;> rfl
@[simp] theorem State.setCh_anEn (s : State) (c : Chan) (x : Channel) : (s.setCh c x).anEn = s.anEn := by cases c <;> rfl
@[simp] theorem State.setCh_win (s : State) (c : Chan) (x : Channel) : (s.setCh c x).win = s.win := by cases c <;> rfl
@[simp] theorem State.setCh_pchg (s : State) (c : Chan) (x : Channel) : (s.setCh c x).pchg = s.pchg := by cases c <;> rfl
@[simp] theorem State.setCh_sampleRate (s : State) (c : Chan) (x : Channel) : (s.setCh c x).sampleRate = s.sampleRate := by cases c <;> rfl
@[simp] theorem State.setCh_blkMax (s : State) (c : Chan) (x : Channel) : (s.setCh c x).blkMax = s.blkMax := by cases c <;> rfl
@[simp] theorem State.setCh_fftSel (s : State) (c : Chan) (x : Channel) : (s.setCh c x).fftSel = s.fftSel := by cases c <;> rfl
@[simp] theorem State.setCh_frameSize (s : State) (c : Chan) (x : Channel) : (s.setCh c x).frameSize = s.frameSize := by cases c <;> rfl
@[simp] theorem State.setCh_bypass (s : State) (c : Chan) (x : Channel) : (s.setCh c x).bypass = s.bypass := by cases c <;> rfl
@[simp] theorem State.setCh_lcCfg (s : State) (c : Chan) (x : Channel) : (s.setCh c x).lcCfg = s.lcCfg := by cases c <;> rfl
@[simp] theorem State.setCh_hcCfg (s : State) (c : Chan) (x : Channel) : (s.setCh c x).hcCfg = s.hcCfg := by cases c <;> rfl
@[simp] theorem State.setCh_dbFloor (s : State) (c : Chan) (x : Channel) : (s.setCh c x).dbFloor = s.dbFloor := by cases c <;> rfl
@[simp] theorem State.setCh_tickPeriod (s : State) (c : Chan) (x : Channel) : (s.setCh c x).tickPeriod = s.tickPeriod := by cases c <;> rfl
@[simp] theorem State.setCh_tcnt (s : State) (c : Chan) (x : Channel) : (s.setCh c x).tcnt = s.tcnt := by cases c <;> rfl
@[simp] theorem State.setCh_blkCnt (s : State) (c : Chan) (x : Channel) : (s.setCh c x).blkCnt = s.blkCnt := by cases c <;> rfl
@[simp] theorem State.setCh_actFftSize (s : State) (c : Chan) (x : Channel) : (s.setCh c x).actFftSize = s.actFftSize := by cases c <;> rfl
@[simp] theorem State.setCh_actFrameSize (s : State) (c : Chan) (x : Channel) : (s.setCh c x).actFrameSize = s.actFrameSize := by cases c <;> rfl
@[simp] theorem State.setCh_actBlkMax (s : State) (c : Chan) (x : Channel) : (s.setCh c x).actBlkMax = s.actBlkMax := by cases c <;> rfl
@[simp] theorem State.setCh_shCoef (s : State) (c : Chan) (x : Channel) : (s.setCh c x).shCoef = s.shCoef := by cases c <;> rfl
@[simp] theorem State.setCh_actCoef (s : State) (c : Chan) (x : Channel) : (s.setCh c x).actCoef = s.actCoef := by cases c <;> rfl
@[simp] theorem State.setCh_actByp (s : State) (c : Chan) (x : Channel) : (s.setCh c x).actByp = s.actByp := by cases c <;> rfl
@[simp] theorem State.setCh_actLcSub (s : State) (c : Chan) (x : Channel) : (s.setCh c x).actLcSub = s.actLcSub := by cases c <;> rfl
@[simp] theorem State.setCh_actHcSub (s : State) (c : Chan) (x : Channel) : (s.setCh c x).actHcSub = s.actHcSub := by cases c <;> rfl
@[simp] theorem State.setCh_buf (s : State) (c : Chan) (x : Channel) : (s.setCh c x).buf = s.buf := by cases c <;> rfl
@[simp] theorem State.setCh_spec (s : State) (c : Chan) (x : Channel) : (s.setCh c x).spec = s.spec := by cases c <;> rfl
@[simp] theorem State.setCh_astate (s : State) (c : Chan) (x : Channel) : (s.setCh c x).astate = s.astate := by cases c <;> rfl
@[simp] theorem State.setCh_rstate (s : State) (c : Chan) (x : Channel) : (s.setCh c x).rstate = s.rstate := by cases c <;> rfl
@[simp] theorem State.setCh_tickReq (s : State) (c : Chan) (x : Channel) : (s.setCh c x).tickReq = s.tickReq := by cases c <;> rfl
@[simp] theorem State.setCh_prepared (s : State) (c : Chan) (x : Channel) : (s.setCh c x).prepared = s.prepared := by cases c <;> rfl
@[simp] theorem State.setCh_lastErr (s : State) (c : Chan) (x : Channel) : (s.setCh c x).lastErr = s.lastErr := by cases c <;> rfl
@[simp] theorem State.setCh_resp (s : State) (c : Chan) (x : Channel) : (s.setCh c x).resp = s.resp := by cases c <;> rfl
@[simp] theorem State.setCh_inputs (s : State) (c : Chan) (x : Channel) : (s.setCh c x).inputs = s.inputs := by cases c <;> rfl
@[simp] theorem State.setCh_clock (s : State) (c : Chan) (x : Channel) : (s.setCh c x).clock = s.clock := by cases c <;> rfl
@[simp] theorem State.setCh_epoch (s : State) (c : Chan) (x : Channel) : (s.setCh c x).epoch = s.epoch := by cases c <;> rfl
@[simp] theorem State.setCh_L_chL (s : State) (x : Channel) : (s.setCh .L x).chL = x := rfl
@[simp] theorem State.setCh_L_chR (s : State) (x : Channel) : (s.setCh .L x).chR = s.chR := rfl
@[simp] theorem State.setCh_R_chL (s : State) (x : Channel) : (s.setCh .R x).chL = s.chL := rfl
@[simp] theorem State.setCh_R_chR (s : State) (x : Channel) : (s.setCh .R x).chR = x := rfl
@[simp] theorem State.ch_L (s : State) : s.ch .L = s.chL := rfl
@[simp] theorem State.ch_R (s : State) : s.ch .R = s.chR := rfl

@[simp] theorem State.setCh_ch_same (s : State) (c : Chan) (x : Channel) : (s.setCh c x).ch c = x := by cases c <;> rfl

theorem State.setCh_ch_other (s : State) {c d : Chan} (h : d ≠ c) (x : Channel) : (s.setCh c x).ch d = s.ch d := by
  cases c <;> cases d <;> first | rfl | exact absurd rfl h

@[simp] theorem State.setCh_setCh (s : State) (c : Chan) (x y : Channel) : (s.setCh c x).setCh c y = s.setCh c y := by
  cases c <;> rfl

@[simp] theorem State.setCh_self (s : State) (c : Chan) : s.setCh c (s.ch c) = s := by cases c <;> rfl

/-! ### `State.setCutCfg` -/

@[simp] theorem State.setCutCfg_irqStatus (s : State) (cut : Cut) (x : CutCfg) : (s.setCutCfg cut x).irqStatus = s.irqStatus := by cases cut <;> rfl
@[simp] theorem State.setCutCfg_irqEnable (s : State) (cut : Cut) (x : CutCfg) : (s.setCutCfg cut x).irqEnable = s.irqEnable := by cases cut <;> rfl
@[simp] theorem State.setCutCfg_inCh (s : State) (cut : Cut) (x : CutCfg) : (s.setCutCfg cut x).inCh = s.inCh := by cases cut <;> rfl
@[simp] theorem State.setCutCfg_anEn (s : State) (cut : Cut) (x : CutCfg) : (s.setCutCfg cut x).anEn = s.anEn := by cases cut <;> rfl
@[simp] theorem State.setCutCfg_win (s : State) (cut : Cut) (x : CutCfg) : (s.setCutCfg cut x).win = s.win := by cases cut <;> rfl
@[simp] theorem State.setCutCfg_sampleRate (s : State) (cut : Cut) (x : CutCfg) : (s.setCutCfg cut x).sampleRate = s.sampleRate := by cases cut <;> rfl
@[simp] theorem State.setCutCfg_blkMax (s : State) (cut : Cut) (x : CutCfg) : (s.setCutCfg cut x).blkMax = s.blkMax := by cases cut <;> rfl
@[simp] theorem State.setCutCfg_fftSel (s : State) (cut : Cut) (x : CutCfg) : (s.setCutCfg cut x).fftSel = s.fftSel := by cases cut <;> rfl
@[simp] theorem State.setCutCfg_frameSize (s : State) (cut : Cut) (x : CutCfg) : (s.setCutCfg cut x).frameSize = s.frameSize := by cases cut <;> rfl
@[simp] theorem State.setCutCfg_bypass (s : State) (cut : Cut) (x : CutCfg) : (s.setCutCfg cut x).bypass = s.bypass := by cases cut <;> rfl
@[simp] theorem State.setCutCfg_dbFloor (s : State) (cut : Cut) (x : CutCfg) : (s.setCutCfg cut x).dbFloor = s.dbFloor := by cases cut <;> rfl
@[simp] theorem State.setCutCfg_tickPeriod (s : State) (cut : Cut) (x : CutCfg) : (s.setCutCfg cut x).tickPeriod = s.tickPeriod := by cases cut <;> rfl
@[simp] theorem State.setCutCfg_tcnt (s : State) (cut : Cut) (x : CutCfg) : (s.setCutCfg cut x).tcnt = s.tcnt := by cases cut <;> rfl
@[simp] theorem State.setCutCfg_blkCnt (s : State) (cut : Cut) (x : CutCfg) : (s.setCutCfg cut x).blkCnt = s.blkCnt := by cases cut <;> rfl
@[simp] theorem State.setCutCfg_actFftSize (s : State) (cut : Cut) (x : CutCfg) : (s.setCutCfg cut x).actFftSize = s.actFftSize := by cases cut <;> rfl
@[simp] theorem State.setCutCfg_actFrameSize (s : State) (cut : Cut) (x : CutCfg) : (s.setCutCfg cut x).actFrameSize = s.actFrameSize := by cases cut <;> rfl
@[simp] theorem State.setCutCfg_actBlkMax (s : State) (cut : Cut) (x : CutCfg) : (s.setCutCfg cut x).actBlkMax = s.actBlkMax := by cases cut <;> rfl
@[simp] theorem State.setCutCfg_shCoef (s : State) (cut : Cut) (x : CutCfg) : (s.setCutCfg cut x).shCoef = s.shCoef := by cases cut <;> rfl
@[simp] theorem State.setCutCfg_actCoef (s : State) (cut : Cut) (x : CutCfg) : (s.setCutCfg cut x).actCoef = s.actCoef := by cases cut <;> rfl
@[simp] theorem State.setCutCfg_actByp (s : State) (cut : Cut) (x : CutCfg) : (s.setCutCfg cut x).actByp = s.actByp := by cases cut <;> rfl
@[simp] theorem State.setCutCfg_actLcSub (s : State) (cut : Cut) (x : CutCfg) : (s.setCutCfg cut x).actLcSub = s.actLcSub := by cases cut <;> rfl
@[simp] theorem State.setCutCfg_actHcSub (s : State) (cut : Cut) (x : CutCfg) : (s.setCutCfg cut x).actHcSub = s.actHcSub := by cases cut <;> rfl
@[simp] theorem State.setCutCfg_chL (s : State) (cut : Cut) (x : CutCfg) : (s.setCutCfg cut x).chL = s.chL := by cases cut <;> rfl
@[simp] theorem State.setCutCfg_chR (s : State) (cut : Cut) (x : CutCfg) : (s.setCutCfg cut x).chR = s.chR := by cases cut <;> rfl
@[simp] theorem State.setCutCfg_buf (s : State) (cut : Cut) (x : CutCfg) : (s.setCutCfg cut x).buf = s.buf := by cases cut <;> rfl
@[simp] theorem State.setCutCfg_spec (s : State) (cut : Cut) (x : CutCfg) : (s.setCutCfg cut x).spec = s.spec := by cases cut <;> rfl
@[simp] theorem State.setCutCfg_astate (s : State) (cut : Cut) (x : CutCfg) : (s.setCutCfg cut x).astate = s.astate := by cases cut <;> rfl
@[simp] theorem State.setCutCfg_rstate (s : State) (cut : Cut) (x : CutCfg) : (s.setCutCfg cut x).rstate = s.rstate := by cases cut <;> rfl
@[simp] theorem State.setCutCfg_tickReq (s : State) (cut : Cut) (x : CutCfg) : (s.setCutCfg cut x).tickReq = s.tickReq := by cases cut <;> rfl
@[simp] theorem State.setCutCfg_prepared (s : State) (cut : Cut) (x : CutCfg) : (s.setCutCfg cut x).prepared = s.prepared := by cases cut <;> rfl
@[simp] theorem State.setCutCfg_lastErr (s : State) (cut : Cut) (x : CutCfg) : (s.setCutCfg cut x).lastErr = s.lastErr := by cases cut <;> rfl
@[simp] theorem State.setCutCfg_resp (s : State) (cut : Cut) (x : CutCfg) : (s.setCutCfg cut x).resp = s.resp := by cases cut <;> rfl
@[simp] theorem State.setCutCfg_inputs (s : State) (cut : Cut) (x : CutCfg) : (s.setCutCfg cut x).inputs = s.inputs := by cases cut <;> rfl
@[simp] theorem State.setCutCfg_clock (s : State) (cut : Cut) (x : CutCfg) : (s.setCutCfg cut x).clock = s.clock := by cases cut <;> rfl
@[simp] theorem State.setCutCfg_epoch (s : State) (cut : Cut) (x : CutCfg) : (s.setCutCfg cut x).epoch = s.epoch := by cases cut <;> rfl
@[simp] theorem State.setCutCfg_pchg (s : State) (cut : Cut) (x : CutCfg) : (s.setCutCfg cut x).pchg = true := by
  cases cut <;> rfl
@[simp] theorem State.setCutCfg_cutCfg (s : State) (cut : Cut) (x : CutCfg) : (s.setCutCfg cut x).cutCfg cut = x := by
  cases cut <;> rfl
@[simp] theorem State.setCutCfg_ch (s : State) (cut : Cut) (x : CutCfg) (d : Chan) : (s.setCutCfg cut x).ch d = s.ch d := by
  cases cut <;> cases d <;> rfl
theorem State.setCutCfg_cutCfg_other (s : State) {cut d : Cut} (h : d ≠ cut) (x : CutCfg) :
    (s.setCutCfg cut x).cutCfg d = s.cutCfg d := by
  cases cut <;> cases d <;> first | rfl | exact absurd rfl h

/-! ### `Channel.prepared` -/

@[simp] theorem Channel.prepared_biquads (x : Channel) : x.prepared.biquads = Vector.replicate 11 BiquadState.zero := rfl
@[simp] theorem Channel.prepared_stg (x : Channel) : x.prepared.stg = x.stg := rfl
@[simp] theorem Channel.prepared_sidx (x : Channel) : x.prepared.sidx = 0 := rfl
@[simp] theorem Channel.prepared_slot (x : Channel) : x.prepared.slot = x.slot := rfl
@[simp] theorem Channel.prepared_wptr (x : Channel) : x.prepared.wptr = 0 := rfl
@[simp] theorem Channel.prepared_rptr (x : Channel) : x.prepared.rptr = 0 := rfl
@[simp] theorem Channel.prepared_wview (x : Channel) : x.prepared.wview = 0 := rfl
@[simp] theorem Channel.prepared_rview (x : Channel) : x.prepared.rview = 0 := rfl
@[simp] theorem Channel.prepared_dropCnt (x : Channel) : x.prepared.dropCnt = 0 := rfl
@[simp] theorem Channel.prepared_roll (x : Channel) : x.prepared.roll = Ram.filled posZero := rfl
@[simp] theorem Channel.prepared_specSeq (x : Channel) : x.prepared.specSeq = 0 := rfl

end Sys2Proof.Machine
end

