-- ==== Sys2Proof/Laws/Agents.lean ====
section
/-! SUPPORT. What the agents' steps change, said once per operation: an operation's result is the state before with the
named fields taken from the result, so every other field is unchanged. -/

namespace Sys2Proof.Machine

/-! ### The chain -/

@[simp] theorem chainOver_nil (s : State) (c : Chan) (x : Word) : chainOver c [] s x = (s, x) := rfl

theorem chainOver_bypassed {s : State} {b : Fin 11} (h : s.effBypass b = true) (c : Chan) (bs : List (Fin 11))
    (x : Word) : chainOver c (b :: bs) s x = chainOver c bs s x := by
  simp [chainOver, h]

theorem chainOver_active {s : State} {b : Fin 11} (h : s.effBypass b = false) (c : Chan) (bs : List (Fin 11))
    (x : Word) : chainOver c (b :: bs) s x = chainOver c bs (biquad s b c x).1 (biquad s b c x).2 := by
  simp [chainOver, h]

theorem biquad_fst (s : State) (b : Fin 11) (c : Chan) (x : Word) :
    (biquad s b c x).1
      = s.setCh c { s.ch c with
          biquads := (s.ch c).biquads.set b (biquadStep s.actCoef[b] (s.ch c).biquads[b] x).1 } := rfl

theorem biquad_snd (s : State) (b : Fin 11) (c : Chan) (x : Word) :
    (biquad s b c x).2 = (biquadStep s.actCoef[b] (s.ch c).biquads[b] x).2 := rfl

/-- A channel's biquad states do not enter the bypass rule. -/
@[simp] theorem effBypass_setCh (s : State) (c : Chan) (x : Channel) (b : Fin 11) :
    (s.setCh c x).effBypass b = s.effBypass b := by simp [State.effBypass]

@[simp] theorem effBypass_biquad (s : State) (b d : Fin 11) (c : Chan) (x : Word) :
    (biquad s b c x).1.effBypass d = s.effBypass d := by simp [biquad_fst]

/-- A list of biquads changes only the biquad states of its channel. -/
theorem chainOver_frame (c : Chan) (bs : List (Fin 11)) (s : State) (x : Word) :
    (chainOver c bs s x).1 = s.setCh c { s.ch c with biquads := ((chainOver c bs s x).1.ch c).biquads } := by
  induction bs generalizing s x with
  | nil => cases c <;> rfl
  | cons b bs ih =>
    cases h : s.effBypass b with
    | true => rw [chainOver_bypassed h]; exact ih s x
    | false =>
      rw [chainOver_active h]
      rw [ih]
      simp [biquad_fst]

/-- The chain changes only the biquad states of its channel. -/
theorem chain_frame (s : State) (c : Chan) (x : Word) :
    (chain s c x).1 = s.setCh c { s.ch c with biquads := ((chain s c x).1.ch c).biquads } :=
  chainOver_frame c biquadOrder s x

/-- The chain reads nothing but the active set and the biquad states of its channel. -/
theorem chainOver_congr {c : Chan} {s t : State} (bs : List (Fin 11)) (x : Word)
    (hb : (s.ch c).biquads = (t.ch c).biquads) (hk : s.actCoef = t.actCoef) (hy : s.actByp = t.actByp)
    (hl : s.actLcSub = t.actLcSub) (hh : s.actHcSub = t.actHcSub) :
    (chainOver c bs s x).2 = (chainOver c bs t x).2
      ∧ ((chainOver c bs s x).1.ch c).biquads = ((chainOver c bs t x).1.ch c).biquads := by
  induction bs generalizing s t x with
  | nil => exact ⟨rfl, hb⟩
  | cons b bs ih =>
    have he : s.effBypass b = t.effBypass b := by simp only [State.effBypass, hy, hl, hh]
    cases h : s.effBypass b with
    | true => rw [chainOver_bypassed h, chainOver_bypassed (he ▸ h)]; exact ih x hb hk hy hl hh
    | false =>
      rw [chainOver_active h, chainOver_active (he ▸ h)]
      rw [show (biquad s b c x).2 = (biquad t b c x).2 by rw [biquad_snd, biquad_snd, hb, hk]]
      refine ih _ ?_ ?_ ?_ ?_ ?_ <;> simp [biquad_fst, hb, hk, hy, hl, hh]

theorem chain_congr {c : Chan} {s t : State} (x : Word) (hb : (s.ch c).biquads = (t.ch c).biquads)
    (hk : s.actCoef = t.actCoef) (hy : s.actByp = t.actByp) (hl : s.actLcSub = t.actLcSub)
    (hh : s.actHcSub = t.actHcSub) :
    (chain s c x).2 = (chain t c x).2 ∧ ((chain s c x).1.ch c).biquads = ((chain t c x).1.ch c).biquads :=
  chainOver_congr biquadOrder x hb hk hy hl hh

/-! ### The tee -/

theorem pushFrame_frame (s : State) (c : Chan) :
    pushFrame s c = { s.setCh c ((pushFrame s c).ch c) with irqStatus := (pushFrame s c).irqStatus } := by
  unfold pushFrame
  dsimp only
  split <;> cases c <;> rfl

theorem pushFrame_channel (s : State) (c : Chan) :
    (pushFrame s c).ch c = { s.ch c with
      slot := ((pushFrame s c).ch c).slot
      wptr := ((pushFrame s c).ch c).wptr
      sidx := ((pushFrame s c).ch c).sidx
      dropCnt := ((pushFrame s c).ch c).dropCnt } := by
  unfold pushFrame
  dsimp only
  split <;> cases c <;> rfl

theorem stageSample_eq (s : State) (c : Chan) (y : Word) :
    stageSample s c y
      = s.setCh c { s.ch c with stg := (s.ch c).stg.write (s.ch c).sidx.toNat y, sidx := (s.ch c).sidx + 1 } := rfl

theorem fifoTee_frame (s : State) (c : Chan) (y : Word) :
    fifoTee s c y = { s.setCh c ((fifoTee s c y).ch c) with irqStatus := (fifoTee s c y).irqStatus } := by
  unfold fifoTee
  dsimp only
  split
  · rw [pushFrame_frame, stageSample_eq]
    cases c <;> rfl
  · cases c <;> rfl

theorem fifoTee_channel (s : State) (c : Chan) (y : Word) :
    (fifoTee s c y).ch c = { s.ch c with
      stg := ((fifoTee s c y).ch c).stg
      slot := ((fifoTee s c y).ch c).slot
      wptr := ((fifoTee s c y).ch c).wptr
      sidx := ((fifoTee s c y).ch c).sidx
      dropCnt := ((fifoTee s c y).ch c).dropCnt } := by
  unfold fifoTee
  dsimp only
  split
  · rw [pushFrame_channel, stageSample_eq]
    cases c <;> rfl
  · cases c <;> rfl

/-- The tee reads nothing but its channel, the frame size, the events and the free contents. -/
theorem fifoTee_congr {s t : State} (c : Chan) (y : Word) (hc : s.ch c = t.ch c)
    (hf : s.actFrameSize = t.actFrameSize) (hi : s.irqStatus = t.irqStatus) (he : s.epoch = t.epoch) :
    (fifoTee s c y).ch c = (fifoTee t c y).ch c ∧ (fifoTee s c y).irqStatus = (fifoTee t c y).irqStatus := by
  unfold fifoTee stageSample pushFrame State.stagedFrame State.stgWord State.raise
  simp only [State.setCh_ch_same, State.setCh_actFrameSize, State.setCh_epoch, hc, hf, he]
  split
  · split <;> constructor <;> (cases c <;> simp [State.setCh, State.ch, hi])
  · constructor <;> (cases c <;> simp [State.setCh, State.ch, hi])

/-! ### AUDIO -/

theorem sampleChannel_eq (s : State) (c : Chan) (j : Nat) :
    sampleChannel s c j
      = fifoTee ((chain s c (s.bufWord c j)).1.setBufWord c j (chain s c (s.bufWord c j)).2) c
          (chain s c (s.bufWord c j)).2 := rfl

theorem sampleChannel_frame (s : State) (c : Chan) (j : Nat) :
    sampleChannel s c j = { s.setCh c ((sampleChannel s c j).ch c) with
      buf := (sampleChannel s c j).buf
      irqStatus := (sampleChannel s c j).irqStatus } := by
  rw [sampleChannel_eq, fifoTee_frame, chain_frame]
  cases c <;> rfl

theorem sampleChannel_channel (s : State) (c : Chan) (j : Nat) :
    (sampleChannel s c j).ch c = { s.ch c with
      biquads := ((sampleChannel s c j).ch c).biquads
      stg := ((sampleChannel s c j).ch c).stg
      slot := ((sampleChannel s c j).ch c).slot
      wptr := ((sampleChannel s c j).ch c).wptr
      sidx := ((sampleChannel s c j).ch c).sidx
      dropCnt := ((sampleChannel s c j).ch c).dropCnt } := by
  rw [sampleChannel_eq, fifoTee_channel, chain_frame]
  cases c <;> rfl

@[simp] theorem sampleChannel_biquads (s : State) (c : Chan) (j : Nat) :
    ((sampleChannel s c j).ch c).biquads = ((chain s c (s.bufWord c j)).1.ch c).biquads := by
  rw [sampleChannel_eq, fifoTee_channel]
  rfl

@[simp] theorem sampleChannel_buf (s : State) (c : Chan) (j : Nat) :
    (sampleChannel s c j).buf = Memory.writeWord s.buf (bufAddr c j) (chain s c (s.bufWord c j)).2 := by
  rw [sampleChannel_eq, fifoTee_frame, chain_frame]
  cases c <;> rfl

/-- One channel's part of AUDIO_SAMPLE is the tee after the chain, on any state that agrees in what they read. -/
theorem sampleChannel_tee {s t : State} {c : Chan} (j : Nat) (x : Word) (hx : s.bufWord c j = x) (hc : s.ch c = t.ch c)
    (hk : s.actCoef = t.actCoef) (hy : s.actByp = t.actByp) (hl : s.actLcSub = t.actLcSub)
    (hh : s.actHcSub = t.actHcSub) (hf : s.actFrameSize = t.actFrameSize) (hi : s.irqStatus = t.irqStatus)
    (he : s.epoch = t.epoch) :
    (sampleChannel s c j).ch c = (fifoTee (chain t c x).1 c (chain t c x).2).ch c
      ∧ (sampleChannel s c j).irqStatus = (fifoTee (chain t c x).1 c (chain t c x).2).irqStatus := by
  have hchain := chain_congr x (congrArg Channel.biquads hc) hk hy hl hh
  rw [sampleChannel_eq, hx, hchain.1]
  have hs := chain_frame s c x
  have ht := chain_frame t c x
  rw [hchain.2] at hs
  refine fifoTee_congr c _ ?_ ?_ ?_ ?_
  · rw [hs, ht, hc]; cases c <;> rfl
  · rw [hs, ht]; cases c <;> exact hf
  · rw [hs, ht]; cases c <;> exact hi
  · rw [hs, ht]; cases c <;> exact he

/-- AUDIO_SAMPLE's effect in the parts R222 names: L first, then R on what L left. -/
theorem audioSample_eq (s : State) (j n : Nat) :
    audioSample s j n = { s with
      astate := .run (j + 1) n
      chL := (sampleChannel s .L j).chL
      chR := (sampleChannel (sampleChannel s .L j) .R j).chR
      buf := (sampleChannel (sampleChannel s .L j) .R j).buf
      irqStatus := (sampleChannel (sampleChannel s .L j) .R j).irqStatus } := by
  have h1 := sampleChannel_frame s .L j
  have h2 := sampleChannel_frame (sampleChannel s .L j) .R j
  unfold audioSample
  generalize sampleChannel (sampleChannel s .L j) .R j = t at h2 ⊢
  generalize sampleChannel s .L j = u at h1 h2 ⊢
  rw [h2, h1]
  rfl

/-- R's part of AUDIO_SAMPLE starts from R's channel as it was. -/
theorem sampleChannel_chR (s : State) (j : Nat) : (sampleChannel s .L j).ch .R = s.ch .R := by
  have h := sampleChannel_frame s .L j
  generalize sampleChannel s .L j = u at h ⊢
  rw [h]
  rfl

/-- A turn of AUDIO changes only what it names: sequencer, block buffers, channels, events, BLK_CNT (R222, R223). -/
theorem audioTurn_frame (s : State) :
    audioTurn s = { s with
      astate := (audioTurn s).astate
      buf := (audioTurn s).buf
      chL := (audioTurn s).chL
      chR := (audioTurn s).chR
      irqStatus := (audioTurn s).irqStatus
      blkCnt := (audioTurn s).blkCnt } := by
  unfold audioTurn
  split
  · rfl
  · split
    · rw [audioSample_eq]
    · split <;> rfl

/-- A turn of AUDIO leaves the consumer's part of a channel as it was: ROLL, SPEC_SEQ, RPTR and the views (R292). -/
theorem audioTurn_channel (s : State) (c : Chan) :
    (audioTurn s).ch c = { s.ch c with
      biquads := ((audioTurn s).ch c).biquads
      stg := ((audioTurn s).ch c).stg
      slot := ((audioTurn s).ch c).slot
      wptr := ((audioTurn s).ch c).wptr
      sidx := ((audioTurn s).ch c).sidx
      dropCnt := ((audioTurn s).ch c).dropCnt } := by
  unfold audioTurn
  split
  · rfl
  · rename_i j n _
    split
    · rw [audioSample_eq]
      cases c with
      | L => exact sampleChannel_channel s .L j
      | R =>
        have h := sampleChannel_channel (sampleChannel s .L j) .R j
        rw [sampleChannel_chR] at h
        exact h
    · split <;> cases c <;> rfl

/-! ### RENDER, TIMER and the synchronisers -/

theorem renderPull_eq (s : State) (c : Chan) (left : Nat) (h : (s.ch c).pullable = true) :
    renderPull s c left
      = { s.setCh c { s.ch c with
            rptr := (s.ch c).rptr + 1
            roll := (s.ch c).roll.writeList 0 (s.shiftedRoll c ++ s.pulledFrame c) } with
          rstate := .fft c (left - 1) } := by
  unfold renderPull fifoPull
  rw [if_pos h]
  cases c <;> rfl

/-- A turn of RENDER changes only what it names: request, sequencer, channels, spectra, events. -/
theorem renderTurn_frame (s : State) :
    renderTurn s = { s with
      tickReq := (renderTurn s).tickReq
      rstate := (renderTurn s).rstate
      chL := (renderTurn s).chL
      chR := (renderTurn s).chR
      spec := (renderTurn s).spec
      irqStatus := (renderTurn s).irqStatus } := by
  unfold renderTurn
  split
  · split <;> rfl
  · rename_i c left _
    split
    · rename_i h
      rw [renderPull_eq s c left h.2]
      cases c <;> rfl
    · cases c <;> rfl
  · rename_i c left _
    cases c <;> rfl

/-- A turn of RENDER changes only RPTR, ROLL and SPEC_SEQ of a channel (R292). -/
theorem renderTurn_channel (s : State) (d : Chan) :
    (renderTurn s).ch d = { s.ch d with
      rptr := ((renderTurn s).ch d).rptr
      roll := ((renderTurn s).ch d).roll
      specSeq := ((renderTurn s).ch d).specSeq } := by
  unfold renderTurn
  split
  · split <;> cases d <;> rfl
  · rename_i c left _
    split
    · rename_i h
      rw [renderPull_eq s c left h.2]
      cases c <;> cases d <;> rfl
    · cases c <;> cases d <;> rfl
  · rename_i c left _
    cases c <;> cases d <;> rfl

/-- A turn of TIMER changes only TCNT and TICK_REQ (R318). -/
theorem timerTurn_frame (s : State) :
    timerTurn s = { s with tcnt := (timerTurn s).tcnt, tickReq := (timerTurn s).tickReq } := by
  unfold timerTurn
  split
  · unfold timerFire
    split <;> rfl
  · rfl

/-- A turn of a synchroniser changes only its view (R252). -/
theorem syncWTurn_frame (s : State) (c : Chan) (v : Ptr) :
    syncWTurn s c v = s.setCh c { s.ch c with wview := ((syncWTurn s c v).ch c).wview } := by
  unfold syncWTurn
  split <;> cases c <;> rfl

/-- A turn of a synchroniser changes only its view (R253). -/
theorem syncRTurn_frame (s : State) (c : Chan) (v : Ptr) :
    syncRTurn s c v = s.setCh c { s.ch c with rview := ((syncRTurn s c v).ch c).rview } := by
  unfold syncRTurn
  split <;> cases c <;> rfl

end Sys2Proof.Machine
end

