-- ==== Sys2Proof/Laws/Exec.lean ====
section
/-! SUPPORT. What an operation of HOST and a step can do, said once: later proofs take these cases and do not unfold
`exec` or `step`. -/

namespace Sys2Proof.Machine

/-- The states an operation of HOST can lead to. -/
inductive HostEffect (s : State) : State → Prop where
  | cmdError (code : ErrCode) : HostEffect s (s.cmdError code)
  | writeError (code : ErrCode) : HostEffect s (s.writeError code)
  | readError (code : ErrCode) : HostEffect s (s.readError code)
  | nop : HostEffect s s.writeDone
  | prepare (idle : s.engineActive = false) (legal : s.configLegal = true) : HostEffect s (prepareEffect s).writeDone
  | release (idle : s.engineActive = false) :
      HostEffect s (State.writeDone { s with prepared := false, tickReq := false })
  | process (n : BitVec 14) (prepared : s.prepared = true) (idle : s.busyA = false)
      (fits : n.toNat ≤ s.actBlkMax.toNat) : HostEffect s (processEffect s n.toNat).writeDone
  | setCut (cut : Cut) (x : CutCfg) : HostEffect s (s.setCutCfg cut x).writeDone
  | tick (prepared : s.prepared = true) :
      HostEffect s (State.writeDone { s with tickReq := s.tickReq || s.anEn })
  | clrErr : HostEffect s (State.writeDone { s with lastErr := .none })
  | setByp (m : BitVec 6) : HostEffect s (State.writeDone { s with bypass := m, pchg := true })
  | read (a : BusAddr) (ok : readFailure s a = none) :
      HostEffect s ((readSideEffect s (region a)).readDone (s.readRegion (region a)))
  | write (a : BusAddr) (v : Word) (ok : writeFailure s a 0xF#4 = none) (notCmd : region a ≠ .ctrl .cmd) :
      HostEffect s (s.writeRegion (region a) v).writeDone

theorem execNop_effect (s : State) : ∃ t, execNop s = .next t ∧ HostEffect s t := ⟨_, rfl, .nop⟩

theorem execPrepare_effect (s : State) : ∃ t, execPrepare s = .next t ∧ HostEffect s t := by
  unfold execPrepare
  split
  · exact ⟨_, rfl, .cmdError _⟩
  · split
    · exact ⟨_, rfl, .cmdError _⟩
    · rename_i h1 h2
      exact ⟨_, rfl, .prepare (by simpa using h1) (by simpa using h2)⟩

theorem execRelease_effect (s : State) : ∃ t, execRelease s = .next t ∧ HostEffect s t := by
  unfold execRelease
  split
  · exact ⟨_, rfl, .cmdError _⟩
  · rename_i h
    exact ⟨_, rfl, .release (by simpa using h)⟩

theorem execProcess_effect (n : BitVec 14) (s : State) : ∃ t, execProcess n s = .next t ∧ HostEffect s t := by
  unfold execProcess
  split
  · exact ⟨_, rfl, .cmdError _⟩
  · split
    · exact ⟨_, rfl, .cmdError _⟩
    · split
      · exact ⟨_, rfl, .cmdError _⟩
      · rename_i h1 h2 h3
        exact ⟨_, rfl, .process n (by simpa using h1) (by simpa using h2) (by omega)⟩

theorem execSetSlope_effect (cut : Cut) (k : BitVec 2) (s : State) :
    ∃ t, execSetSlope cut k s = .next t ∧ HostEffect s t := ⟨_, rfl, .setCut cut _⟩

theorem execTick_effect (s : State) : ∃ t, execTick s = .next t ∧ HostEffect s t := by
  unfold execTick
  split
  · exact ⟨_, rfl, .cmdError _⟩
  · rename_i h
    exact ⟨_, rfl, .tick (by simpa using h)⟩

theorem execClrErr_effect (s : State) : ∃ t, execClrErr s = .next t ∧ HostEffect s t := ⟨_, rfl, .clrErr⟩

theorem execSetByp_effect (stage : BitVec 4) (v : Bool) (s : State) :
    ∃ t, execSetByp stage v s = .next t ∧ HostEffect s t := by
  unfold execSetByp
  split
  · exact ⟨_, rfl, .cmdError _⟩
  · exact ⟨_, rfl, .setByp _⟩

theorem execSetSubByp_effect (cut : Cut) (idx : BitVec 2) (v : Bool) (s : State) :
    ∃ t, execSetSubByp cut idx v s = .next t ∧ HostEffect s t := ⟨_, rfl, .setCut cut _⟩

theorem executeCommandWord_effect (v : Word) (s : State) :
    ∃ t, executeCommandWord v s = .next t ∧ HostEffect s t := by
  unfold executeCommandWord
  split
  · exact ⟨_, rfl, .cmdError _⟩
  · exact execNop_effect s
  · exact execPrepare_effect s
  · exact execRelease_effect s
  · exact execProcess_effect _ s
  · exact execSetSlope_effect _ _ s
  · exact execTick_effect s
  · exact execClrErr_effect s
  · exact execSetByp_effect _ _ s
  · exact execSetSubByp_effect _ _ _ s
  · exact ⟨_, rfl, .cmdError _⟩
  · exact ⟨_, rfl, .cmdError _⟩

theorem execRegRead_effect (a : BusAddr) (s : State) : ∃ t, execRegRead a s = .next t ∧ HostEffect s t := by
  unfold execRegRead
  split
  · exact ⟨_, rfl, .readError _⟩
  · rename_i h
    exact ⟨_, rfl, .read a h⟩

theorem execRegWrite_effect (a : BusAddr) (strb : BitVec 4) (v : Word) (s : State) :
    ∃ t, execRegWrite a strb v s = .next t ∧ HostEffect s t := by
  unfold execRegWrite
  split
  · exact ⟨_, rfl, .writeError _⟩
  · rename_i h
    split
    · exact executeCommandWord_effect v s
    · rename_i hc
      have hs : strb = 0xF#4 := by
        by_contra hne
        simp [writeFailure, hne] at h
      subst hs
      exact ⟨_, rfl, .write a v h hc⟩

/-- Every operation answers a next state, one of the listed ones. -/
theorem exec_effect (i : Instr) (s : State) : ∃ t, exec i s = .next t ∧ HostEffect s t := by
  cases i with
  | nop => exact execNop_effect s
  | prepare => exact execPrepare_effect s
  | release => exact execRelease_effect s
  | process n => exact execProcess_effect n s
  | setSlope cut k => exact execSetSlope_effect cut k s
  | tick => exact execTick_effect s
  | clrErr => exact execClrErr_effect s
  | setByp stage v => exact execSetByp_effect stage v s
  | setSubByp cut idx v => exact execSetSubByp_effect cut idx v s
  | regRead addr => exact execRegRead_effect addr s
  | regWrite addr strb data => exact execRegWrite_effect addr strb data s

/-- Inversion of `exec`: a next state is one of the listed ones. -/
theorem exec_next {i : Instr} {s t : State} (h : exec i s = .next t) : HostEffect s t := by
  obtain ⟨u, hu, he⟩ := exec_effect i s
  rw [hu] at h
  cases h
  exact he

/-- The states a step can lead to. -/
inductive StepEffect (s : State) : State → Prop where
  | host (op : HostOp) (rest : List Input) (hin : s.inputs = .bus op :: rest) (t : State)
      (run : exec (fetched op) { s with inputs := rest } = .next t) : StepEffect s t
  | agent (a : Agent) (rest : List Input) (hin : s.inputs = .turn a :: rest) :
      StepEffect s (turn a { s with inputs := rest })
  | reset (rest : List Input) (hin : s.inputs = .reset :: rest) :
      StepEffect s (hardwareReset { s with inputs := rest })
  | free (hin : s.inputs = []) : StepEffect s (turn s.scheduled { s with clock := s.clock + 1 })

/-- Inversion of `step`. -/
theorem step_next {s t : State} (h : step s = .next t) : StepEffect s t := by
  unfold step at h
  split at h
  · rename_i op rest hin
    exact .host op rest hin t h
  · rename_i a rest hin
    cases h
    exact .agent a rest hin
  · rename_i rest hin
    cases h
    exact .reset rest hin
  · rename_i hin
    cases h
    exact .free hin

theorem step_bus {s : State} {op : HostOp} {rest : List Input} (h : s.inputs = .bus op :: rest) :
    step s = exec (fetched op) { s with inputs := rest } := by simp [step, h]

theorem step_turn {s : State} {a : Agent} {rest : List Input} (h : s.inputs = .turn a :: rest) :
    step s = .next (turn a { s with inputs := rest }) := by simp [step, h]

theorem step_reset {s : State} {rest : List Input} (h : s.inputs = .reset :: rest) :
    step s = .next (hardwareReset { s with inputs := rest }) := by simp [step, h]

theorem step_free {s : State} (h : s.inputs = []) :
    step s = .next (turn s.scheduled { s with clock := s.clock + 1 }) := by simp [step, h]

/-- A run of k + 1 steps is a step and a run of k. -/
theorem run_step (k : Nat) {s t : State} (h : step s = .next t) : Sys2Proof.core.run (k + 1) s = Sys2Proof.core.run k t := by
  have gen : ∀ (M : Host.Core) (x y : M.State), M.step x = .next y → M.run (k + 1) x = M.run k y := by
    intro M x y hxy
    rw [Host.Core.run, hxy]
  exact gen Sys2Proof.core s t h

/-- A run of k steps and a step more is a run of k + 1. -/
theorem run_then_step (k : Nat) (s t u : State) (h : Sys2Proof.core.run k s = .next t) (hu : step t = .next u) :
    Sys2Proof.core.run (k + 1) s = .next u := by
  have gen : ∀ (M : Host.Core) (k : Nat) (x y z : M.State), M.run k x = .next y → M.step y = .next z →
      M.run (k + 1) x = .next z := by
    intro M k
    induction k with
    | zero =>
      intro x y z hxy hyz
      cases hxy
      simp [Host.Core.run, hyz]
    | succ k ih =>
      intro x y z hxy hyz
      rw [Host.Core.run] at hxy ⊢
      split at hxy
      · exact ih _ _ _ hxy hyz
      · cases hxy
      · cases hxy
  exact gen Sys2Proof.core k s t u h hu

@[simp] theorem run_zero (s : State) : Sys2Proof.core.run 0 s = .next s := rfl

end Sys2Proof.Machine
end

