-- ==== Sys2Proof/Laws/Ops.lean ====
section
/-! SUPPORT. The single-bit, error, commit and block-buffer operations, each with one lemma that says all it does. -/

namespace Sys2Proof.Machine

/-! ### Single bits -/

/-- `x[i] <- v` sets bit i and leaves the others. -/
theorem setBit_getLsbD {n : Nat} (x : BitVec n) (i e : Nat) (v : Bool) (h : e < n) :
    (setBit x i v).getLsbD e = if e = i then v else x.getLsbD e := by
  cases v <;> by_cases he : e = i
  · subst he
    simp [setBit, h]
  · simp [setBit, h, he]
  · subst he
    simp [setBit, h]
  · simp [setBit, h, he]

/-- A set bit stays set when another is set (R311). -/
theorem setBit_sticky {n : Nat} {x : BitVec n} {e : Nat} (i : Nat) (h : x.getLsbD e = true) :
    (setBit x i true).getLsbD e = true := by
  simp [setBit, h]

/-! ### Errors (R302, R303) -/

theorem cmdError_eq (s : State) (code : ErrCode) :
    s.cmdError code
      = { s with lastErr := code, irqStatus := s.irqStatus ||| 0b000100#6, resp := .write true } := rfl

theorem writeError_eq (s : State) (code : ErrCode) :
    s.writeError code
      = { s with lastErr := code, irqStatus := s.irqStatus ||| 0b001000#6, resp := .write true } := rfl

theorem readError_eq (s : State) (code : ErrCode) :
    s.readError code
      = { s with lastErr := code, irqStatus := s.irqStatus ||| 0b001000#6, resp := .read 0 true } := rfl

/-! ### Commit and PROCESS (R140, R210, R221) -/

theorem mapBank_get (f : Coefs → Coefs) (v : Vector Coefs 11) (b : Fin 11) : (mapBank f v)[b] = f v[b] := by
  unfold mapBank
  fin_cases b <;> rfl

theorem committed_allFinite (k : Coefs) : (committed k).allFinite = true := by
  unfold committed
  split
  · assumption
  · decide

theorem commit_eq (s : State) : commit s = { s with
    actCoef := mapBank committed s.shCoef
    actByp := s.bypass
    actLcSub := s.lcCfg.subByp
    actHcSub := s.hcCfg.subByp
    irqStatus := if anyNonFinite s.shCoef then s.irqStatus ||| 0b100000#6 else s.irqStatus } := by
  unfold commit
  dsimp only
  split <;> rfl

theorem clearMissingInputs_eq (s : State) (n : Nat) :
    clearMissingInputs s n = { s with buf := (clearMissingInputs s n).buf } := by
  unfold clearMissingInputs
  dsimp only
  split <;> split <;> rfl

theorem processEffect_eq (s : State) (n : Nat) : processEffect s n = { s with
    buf := (clearMissingInputs s n).buf
    astate := .run 0 n
    actCoef := mapBank committed s.shCoef
    actByp := s.bypass
    actLcSub := s.lcCfg.subByp
    actHcSub := s.hcCfg.subByp
    irqStatus := if anyNonFinite s.shCoef then s.irqStatus ||| 0b100000#6 else s.irqStatus } := by
  unfold processEffect
  rw [commit_eq, clearMissingInputs_eq]

theorem fftSizeOf_eq (sel : BitVec 2) : fftSizeOf sel = 2048 * 2 ^ sel.toNat := by
  simp [fftSizeOf, Nat.shiftLeft_eq]

/-! ### Block and spectrum buffers -/

theorem bufAddr_eq (c : Chan) (j : Nat) : bufAddr c j = bufAddr c 0 + 4 * j := by simp [bufAddr]

theorem specAddr_eq (c : Chan) (k : Nat) : specAddr c k = specAddr c 0 + 4 * k := by simp [specAddr]

/-- The two channels' words of one index do not overlap. -/
theorem bufAddr_apart {c d : Chan} (h : c ≠ d) (j : Nat) :
    bufAddr c j + 4 ≤ bufAddr d j ∨ bufAddr d j + 4 ≤ bufAddr c j := by
  cases c <;> cases d <;> simp only [bufAddr, chanIndex] <;> first | exact absurd rfl h | omega

@[simp] theorem bufWord_setBufWord_same (s : State) (c : Chan) (j : Nat) (v : Word) :
    (s.setBufWord c j v).bufWord c j = v := by
  simp [State.bufWord, State.setBufWord]

theorem ramByte_setBufWord_outside (s : State) {c : Chan} {j a : Nat} (v : Word)
    (h : a < bufAddr c j ∨ bufAddr c j + 4 ≤ a) : (s.setBufWord c j v).ramByte a = s.ramByte a := by
  simp only [State.ramByte, State.setBufWord]
  split
  · exact Memory.read_writeWord_outside _ _ _ h
  · rfl

/-! ### Pointers -/

theorem ptr_sub_val (a b : Ptr) : (a - b).val = (60 - b.val + a.val) % 60 := rfl

theorem ptr_succ_val (a : Ptr) : (a + 1).val = (a.val + 1) % 60 := by
  rw [Fin.val_add]
  rfl

end Sys2Proof.Machine
end

