-- ==== Sys2Proof/Machine/HostReference.lean ====
section
/-! DEFINITION. REFERENCE ONLY: what the spec gives over the real numbers and no step of the block computes. The host's
reference driver (41_coefficient_factory.md R170–R185, host software by 00_scope.md R7), and the reference choices of the
OPEN functions (44_fft_engine.md R279, R280, R283, R285). Log 18. -/

namespace Sys2Proof.Machine.Reference

noncomputable section

/-! ### binary32 words and real numbers (R14) -/

/-- The real number of a finite word: its units of 2^-149 with its sign (R85). An infinity or a NaN is no real number:
the definitions below ask for this of finite words only (log 18). -/
def realOf (w : Word) : ℝ :=
  (if Binary32.sign w then -1 else 1) * (Binary32.units w : ℝ) * (2 : ℝ) ^ (-149 : ℤ)

/-- A magnitude in units rounded to the grid of binary32 values, ties to even (R14). -/
def roundUnits (u : ℝ) : ℕ :=
  let g : ℕ := Binary32.spacing ⌊u⌋₊ 1
  let q : ℕ := ⌊u / g⌋₊
  let f : ℝ := u / g - q
  if f < 1 / 2 then q * g
  else if 1 / 2 < f then (q + 1) * g
  else if q % 2 = 0 then q * g else (q + 1) * g

/-- `round32(r)`: the binary32 value nearest `r`, ties to even (R14). DESIGN CHOICE (log 18): R14 does not say which of
the two zeros, equal as values, is given where the nearest value is zero, nor what is given beyond the largest finite value.
A negative real that rounds to zero gives −0.0, and 0 and a positive real that does give +0.0. A magnitude that rounds to
2^128 or more gives the infinity of its sign. A stored coefficient gets the zero so chosen (R184), and an infinity makes its
set the unity set (R182). Safe: no step uses it. -/
def round32 (r : ℝ) : Word := Binary32.pack (decide (r < 0)) (roundUnits (|r| * 2 ^ 149))

/-! ### The parameter surface (R170–R173) -/

/-- A numeric parameter's range, step, default and skew (R170). -/
structure ParamRange where
  lo : ℝ
  hi : ℝ
  step : ℝ
  default : ℝ
  skew : ℝ
  default_mem : lo ≤ default ∧ default ≤ hi

/-- A value inside a parameter's range: all that the parameter can hold (R171, R172). -/
abbrev ParamRange.Value (p : ParamRange) : Type := { x : ℝ // p.lo ≤ x ∧ x ≤ p.hi }

/-- min(max(x, lo), hi) (R172). -/
def ParamRange.clamp (p : ParamRange) (x : ℝ) : ℝ := min (max x p.lo) p.hi

theorem ParamRange.clamp_mem (p : ParamRange) (x : ℝ) : p.lo ≤ p.clamp x ∧ p.clamp x ≤ p.hi :=
  ⟨le_min (le_max_right _ _) (p.default_mem.1.trans p.default_mem.2), min_le_right _ _⟩

/-- What a host write of `x` to a parameter stores (R172). -/
def ParamRange.store (p : ParamRange) (x : ℝ) : p.Value := ⟨p.clamp x, p.clamp_mem x⟩

/-- Value to normalised position (R173). -/
def ParamRange.position (p : ParamRange) (x : ℝ) : ℝ := ((x - p.lo) / (p.hi - p.lo)) ^ p.skew

/-- Normalised position to value (R173). -/
def ParamRange.value (p : ParamRange) (pos : ℝ) : ℝ := p.lo + (p.hi - p.lo) * pos ^ (1 / p.skew)

/-- A frequency parameter with its default (R170). -/
def freqParam (d : ℝ) (h : 20 ≤ d ∧ d ≤ 20000) : ParamRange := ⟨20, 20000, 1, d, 0.3, h⟩

def lowCutFreqParam : ParamRange := freqParam 20 (by norm_num)
def highCutFreqParam : ParamRange := freqParam 20000 (by norm_num)

/-- The defaults of Band1..3 Freq (R170). -/
def bandFreqDefault : Fin 3 → ℝ := ![400, 1000, 5000]

theorem bandFreqDefault_mem (b : Fin 3) : 20 ≤ bandFreqDefault b ∧ bandFreqDefault b ≤ 20000 := by
  fin_cases b <;> norm_num [bandFreqDefault]

/-- Band1..3 Freq (R170). -/
def bandFreqParam (b : Fin 3) : ParamRange := freqParam (bandFreqDefault b) (bandFreqDefault_mem b)

/-- Band gains (R170). -/
def bandGainParam : ParamRange := ⟨-24, 24, 0.1, 0, 1, by norm_num⟩

/-- Band qualities (R170). -/
def bandQualityParam : ParamRange := ⟨0.1, 10, 0.05, 1, 1, by norm_num⟩

/-- The numeric parameters (R170). -/
inductive NumParam where
  | lowCutFreq
  | highCutFreq
  | bandFreq (b : Fin 3)
  | bandGainDb (b : Fin 3)
  | bandQuality (b : Fin 3)
  deriving DecidableEq

/-- A numeric parameter's range (R170). -/
def NumParam.range : NumParam → ParamRange
  | .lowCutFreq => lowCutFreqParam
  | .highCutFreq => highCutFreqParam
  | .bandFreq b => bandFreqParam b
  | .bandGainDb _ => bandGainParam
  | .bandQuality _ => bandQualityParam

/-- The Boolean parameters (R170). -/
inductive FlagParam where
  | allBypassed
  | lowCutBypassed
  | bandBypassed (b : Fin 3)
  | highCutBypassed
  | analyzerEnabled
  deriving DecidableEq

/-- The current values of all parameters, each inside its range (R170, R172); a slope by its ordinal 0..3 (R171). -/
structure ParamStore where
  num : (p : NumParam) → p.range.Value
  slope : Cut → BitVec 2
  flag : FlagParam → Bool

/-- The default parameters (R170). -/
def ParamStore.defaults : ParamStore where
  num p := ⟨p.range.default, p.range.default_mem⟩
  slope _ := 0
  flag f := decide (f = .analyzerEnabled)

/-- A host write of a numeric parameter: clamped into its range (R172). -/
def ParamStore.writeNum (s : ParamStore) (p : NumParam) (x : ℝ) : ParamStore :=
  { s with num := Function.update s.num p (p.range.store x) }

/-- A host write of a slope parameter (R170). -/
def ParamStore.writeSlope (s : ParamStore) (cut : Cut) (k : BitVec 2) : ParamStore :=
  { s with slope := Function.update s.slope cut k }

/-- A host write of a Boolean parameter (R170). -/
def ParamStore.writeFlag (s : ParamStore) (f : FlagParam) (v : Bool) : ParamStore :=
  { s with flag := Function.update s.flag f v }

/-- The ParameterSnapshot: a flat record of all parameters, frequencies in 20..20000 Hz, gains in −24..24 dB, qualities
in 0.1..10, slope ordinals 0..3 (R171). -/
structure Snapshot where
  bandFreq : (b : Fin 3) → (bandFreqParam b).Value
  bandGainDb : Fin 3 → bandGainParam.Value
  bandQuality : Fin 3 → bandQualityParam.Value
  lowCutFreq : lowCutFreqParam.Value
  highCutFreq : highCutFreqParam.Value
  lowCutSlope : BitVec 2
  highCutSlope : BitVec 2
  allBypassed : Bool
  lowCutBypassed : Bool
  bandBypassed : Fin 3 → Bool
  highCutBypassed : Bool
  analyzerEnabled : Bool

/-- The capture at a block boundary (R171, R174). -/
def Snapshot.capture (s : ParamStore) : Snapshot where
  bandFreq b := s.num (.bandFreq b)
  bandGainDb b := s.num (.bandGainDb b)
  bandQuality b := s.num (.bandQuality b)
  lowCutFreq := s.num .lowCutFreq
  highCutFreq := s.num .highCutFreq
  lowCutSlope := s.slope .low
  highCutSlope := s.slope .high
  allBypassed := s.flag .allBypassed
  lowCutBypassed := s.flag .lowCutBypassed
  bandBypassed b := s.flag (.bandBypassed b)
  highCutBypassed := s.flag .highCutBypassed
  analyzerEnabled := s.flag .analyzerEnabled

/-- The snapshot of the default parameters (R170). -/
def Snapshot.defaults : Snapshot := Snapshot.capture ParamStore.defaults

/-- BYPASS of a snapshot (R175). -/
def Snapshot.bypassWord (p : Snapshot) : Word :=
  flagAt p.allBypassed 0 ||| flagAt p.lowCutBypassed 1 ||| flagAt (p.bandBypassed 0) 2 |||
    flagAt (p.bandBypassed 1) 3 ||| flagAt (p.bandBypassed 2) 4 ||| flagAt p.highCutBypassed 5

/-- CTRL of a snapshot: Analyzer Enabled is AN_EN (R175); IN_CH and WIN, which no parameter holds, are the host's
(R39). -/
def Snapshot.ctrlWord (p : Snapshot) (inCh : BitVec 2) (win : WindowKind) : Word :=
  fieldAt inCh 0 ||| flagAt p.analyzerEnabled 4 ||| flagAt (winBit win) 5

/-- The write of CTRL that puts Analyzer Enabled into AN_EN (R175; 70_reset_and_hazards.md R344, step 3). -/
def analyzerOp (p : Snapshot) (inCh : BitVec 2) (win : WindowKind) : HostOp :=
  wr (ctrlAddr .ctrl) (p.ctrlWord inCh win)

/-! ### Coefficient synthesis (R177–R184) -/

/-- f_c: the frequency clamped into (0, Nyquist), F_LO = 1 Hz, F_HI_FRAC = 0.499 (R177). -/
def clampFreq (fs f : ℝ) : ℝ := min (max f 1) (0.499 * fs)

/-- A set of real coefficients over a common divisor, each rounded once (R184). Unity if a rounded value is not finite,
or if the design divides by 0 anywhere, so that a value is not a finite number (R182): `inner` lists the divisors on the
way to the arguments. -/
def storedSet (inner : List ℝ) (d b0 b1 b2 a1 a2 : ℝ) : Coefs :=
  if 0 ∈ d :: inner then Coefs.unity
  else committed
    ⟨round32 (b0 / d), round32 (b1 / d), round32 (b2 / d), round32 (a1 / d), round32 (a2 / d)⟩

/-- `makePeakFilter(freq, Q, gainDB)` (R178), unity for |gainDB| < 0.05 dB (R179). -/
def peakSet (fs freq q gainDb : ℝ) : Coefs :=
  let a := (10 : ℝ) ^ (gainDb / 40)
  let w := 2 * Real.pi * clampFreq fs freq / fs
  let alpha := Real.sin w / (2 * q)
  if |gainDb| < 0.05 then Coefs.unity
  else storedSet [fs, 2 * q, a] (1 + alpha / a) (1 + alpha * a) (-2 * Real.cos w) (1 - alpha * a) (-2 * Real.cos w)
    (1 - alpha / a)

/-- The divisor of Q_i (R180). -/
def sectionQDivisor (slope i : ℕ) : ℝ := 2 * Real.cos ((2 * i + 1) * Real.pi / (2 * (2 * (slope + 1))))

/-- Q_i of section i of a Butterworth cascade with slope ordinal `slope`, order n = 2·(slope + 1) (R180). -/
def sectionQ (slope i : ℕ) : ℝ := 1 / sectionQDivisor slope i

/-- The angle π·f_c/fs (R180). -/
def warpAngle (fs freq : ℝ) : ℝ := Real.pi * clampFreq fs freq / fs

/-- K = tan(π·f_c/fs) (R180). -/
def warp (fs freq : ℝ) : ℝ := Real.tan (warpAngle fs freq)

/-- What a cascade section divides by on the way to K and Q_i: the tangent has a pole where the cosine is 0 (R180). -/
def sectionDivisors (fs freq : ℝ) (slope i : ℕ) : List ℝ :=
  [fs, Real.cos (warpAngle fs freq), sectionQDivisor slope i, sectionQ slope i]

/-- Section i of `makeHighpassCascade` (R180). -/
def highpassSection (fs freq : ℝ) (slope i : ℕ) : Coefs :=
  let k := warp fs freq
  let q := sectionQ slope i
  storedSet (sectionDivisors fs freq slope i) (1 + k / q + k ^ 2) 1 (-2) 1 (2 * (k ^ 2 - 1)) (1 - k / q + k ^ 2)

/-- Section i of `makeLowpassCascade` (R181). -/
def lowpassSection (fs freq : ℝ) (slope i : ℕ) : Coefs :=
  let k := warp fs freq
  let q := sectionQ slope i
  storedSet (sectionDivisors fs freq slope i) (1 + k / q + k ^ 2) (k ^ 2) (2 * k ^ 2) (k ^ 2) (2 * (k ^ 2 - 1))
    (1 - k / q + k ^ 2)

/-! ### Per-block refresh (R174–R176, R183; the pseudo-instructions of R121) -/

/-- `coef b, …`: five writes of SH(b, 0..4) in order (R121). -/
def coefOps (b : Fin 11) (c : Coefs) : List HostOp := [0, 1, 2, 3, 4].map (fun k => wr (shAddr b k) (c.get k))

/-- `wrf addr, real` (R121). -/
def wrf (a : BusAddr) (r : ℝ) : HostOp := wr a (round32 r)

/-- The writes of one cut cascade: section i to biquad first + i for i = 0..slope only (R183). -/
def cascadeOps (first : ℕ) (slope : BitVec 2) (sect : ℕ → Coefs) : List HostOp :=
  (List.range (slope.toNat + 1)).flatMap (fun i => coefOps (Fin.ofNat 11 (first + i)) (sect i))

/-- The driver's transactions before a block of n samples and the block itself: coefficients, slopes, BYPASS, PROCESS
(R174, R175, R176, R183). -/
def refreshOps (fs : ℝ) (p : Snapshot) (n : BitVec 14) : List HostOp :=
  cascadeOps 0 p.lowCutSlope (fun i => highpassSection fs p.lowCutFreq p.lowCutSlope.toNat i)
    ++ coefOps 4 (peakSet fs (p.bandFreq 0) (p.bandQuality 0) (p.bandGainDb 0))
    ++ coefOps 5 (peakSet fs (p.bandFreq 1) (p.bandQuality 1) (p.bandGainDb 1))
    ++ coefOps 6 (peakSet fs (p.bandFreq 2) (p.bandQuality 2) (p.bandGainDb 2))
    ++ cascadeOps 7 p.highCutSlope (fun i => lowpassSection fs p.highCutFreq p.highCutSlope.toNat i)
    ++ [encode (.setSlope .low p.lowCutSlope), encode (.setSlope .high p.highCutSlope),
        wr (ctrlAddr .bypass) p.bypassWord, encode (.process n)]

/-- A block of n samples as the driver runs it: it captures a snapshot of the parameters and refreshes from that
(R171, R174). -/
def blockOps (fs : ℝ) (s : ParamStore) (n : BitVec 14) : List HostOp := refreshOps fs (Snapshot.capture s) n

/-! ### Transfer function (R185) -/

/-- H(z) of a biquad with stored coefficients (R185). At a pole H has no value, and the quotient is then Lean's 0; at
z = 0 the inverse z⁻¹ is. DESIGN CHOICE (log 18), no step uses it. The coefficients are finite, as every committed set's are (R210, R211). -/
def transfer (c : Coefs) (z : ℂ) : ℂ :=
  (realOf c.b0 + realOf c.b1 * z⁻¹ + realOf c.b2 * z⁻¹ ^ 2) / (1 + realOf c.a1 * z⁻¹ + realOf c.a2 * z⁻¹ ^ 2)

/-- H of the whole chain as the active set has it: the product over the biquads, a bypassed one counting 1 (R185). -/
def chainTransfer (s : State) (z : ℂ) : ℂ :=
  (biquadOrder.map (fun b => if s.effBypass b then 1 else transfer s.actCoef[b] z)).prod

/-- |H(f)| of the chain at a sample rate (R185), which is not 0: f / 0 is Lean's 0 (log 18). -/
def magnitudeResponse (s : State) (fs f : ℝ) : ℝ :=
  ‖chainTransfer s (Complex.exp (2 * Real.pi * f / fs * Complex.I))‖

/-! ### Reference choices of the OPEN functions (R279, R280, R283, R285) -/

/-- The reference shapes w_BH and w_Hann (R279). -/
def windowShape (kind : WindowKind) (n i : ℕ) : ℝ :=
  let t := 2 * Real.pi * i / (n - 1)
  match kind with
  | .blackmanHarris =>
    0.35875 - 0.48829 * Real.cos t + 0.14128 * Real.cos (2 * t) - 0.01168 * Real.cos (3 * t)
  | .hann => 0.5 - 0.5 * Real.cos t

/-- The reference window table, scaled to sum to N (R279, R280). -/
def windowReference (kind : WindowKind) (n i : ℕ) : Word :=
  round32 (windowShape kind n i * n / ∑ j ∈ Finset.range n, windowShape kind n j)

/-- The reference magnitude of bin k: the modulus of the forward DFT, rounded once (R283). DESIGN CHOICE (log 18): R283
gives the reference for the DFT of a real input only, so for samples one of which is ±∞ or a NaN there is no reference
value: none. Safe: no step uses it, and `Machine.fftMag` is free there. -/
def magnitudeReference (n : ℕ) (x : ℕ → Word) (k : ℕ) : Option Word :=
  if ∀ j < n, Binary32.isFinite (x j) = true then
    some (round32 ‖∑ j ∈ Finset.range n, (realOf (x j) : ℂ) * Complex.exp (-2 * Real.pi * Complex.I * k * j / n)‖)
  else none

/-- The reference decibel function: round32(20·log10(m)) of a positive finite m; DB20 takes no other word, so there is
no reference value for one: none (R285). -/
def db20Reference (m : Word) : Option Word :=
  if Binary32.isFinite m = true ∧ 0 < realOf m then some (round32 (20 * Real.logb 10 (realOf m))) else none

/-- The frequency of bin k (R289). -/
def binFrequency (fs : ℝ) (n k : ℕ) : ℝ := k * fs / n

end

end Sys2Proof.Machine.Reference
end

