-- ==== Sys2Proof/Laws/HostReference.lean ====
section
/-! SUPPORT. What the host reference promises: stored sets are finite, degenerate designs are unity, parameters stay in
their ranges, and Analyzer Enabled reaches CTRL.AN_EN. -/

namespace Sys2Proof.Machine.Reference

/-- Every set the driver stores is finite (R182). -/
theorem storedSet_allFinite (inner : List ℝ) (d b0 b1 b2 a1 a2 : ℝ) :
    (storedSet inner d b0 b1 b2 a1 a2).allFinite = true := by
  unfold storedSet
  split
  · decide
  · exact committed_allFinite _

/-- A design that divides by 0 is unity (R182). -/
theorem storedSet_degenerate {inner : List ℝ} (h : (0 : ℝ) ∈ inner) (d b0 b1 b2 a1 a2 : ℝ) :
    storedSet inner d b0 b1 b2 a1 a2 = Coefs.unity := if_pos (List.mem_cons_of_mem d h)

theorem peakSet_at_rate_zero (freq q gainDb : ℝ) : peakSet 0 freq q gainDb = Coefs.unity := by
  unfold peakSet
  split
  · rfl
  · exact storedSet_degenerate (by simp) _ _ _ _ _ _

theorem highpassSection_at_rate_zero (freq : ℝ) (slope i : ℕ) : highpassSection 0 freq slope i = Coefs.unity :=
  storedSet_degenerate (by simp [sectionDivisors]) _ _ _ _ _ _

theorem lowpassSection_at_rate_zero (freq : ℝ) (slope i : ℕ) : lowpassSection 0 freq slope i = Coefs.unity :=
  storedSet_degenerate (by simp [sectionDivisors]) _ _ _ _ _ _

/-- A value inside the range is stored as it is (R172). -/
theorem ParamRange.clamp_of_mem (p : ParamRange) {x : ℝ} (h : p.lo ≤ x ∧ x ≤ p.hi) : p.clamp x = x := by
  simp [ParamRange.clamp, h.1, h.2]

@[simp] theorem ParamStore.writeNum_num_self (s : ParamStore) (p : NumParam) (x : ℝ) :
    (s.writeNum p x).num p = p.range.store x := Function.update_self _ _ _

@[simp] theorem ParamStore.writeNum_num_of_ne (s : ParamStore) {p q : NumParam} (h : q ≠ p) (x : ℝ) :
    (s.writeNum p x).num q = s.num q := Function.update_of_ne h _ _

/-- The ranges of a snapshot (R171). -/
theorem Snapshot.ranges (p : Snapshot) :
    (∀ b, 20 ≤ (p.bandFreq b : ℝ) ∧ (p.bandFreq b : ℝ) ≤ 20000)
    ∧ (∀ b, -24 ≤ (p.bandGainDb b : ℝ) ∧ (p.bandGainDb b : ℝ) ≤ 24)
    ∧ (∀ b, 0.1 ≤ (p.bandQuality b : ℝ) ∧ (p.bandQuality b : ℝ) ≤ 10)
    ∧ (20 ≤ (p.lowCutFreq : ℝ) ∧ (p.lowCutFreq : ℝ) ≤ 20000)
    ∧ (20 ≤ (p.highCutFreq : ℝ) ∧ (p.highCutFreq : ℝ) ≤ 20000) :=
  ⟨fun b => (p.bandFreq b).2, fun b => (p.bandGainDb b).2, fun b => (p.bandQuality b).2, p.lowCutFreq.2, p.highCutFreq.2⟩

/-- Analyzer Enabled reaches AN_EN, beside the host's IN_CH and WIN (R175). -/
theorem analyzerOp_sets_anEn (p : Snapshot) (inCh : BitVec 2) (win : WindowKind) (s : State) :
    exec (fetched (analyzerOp p inCh win)) s
      = .next (State.writeDone { s with
          inCh := if inCh = 3 then 2 else inCh, anEn := p.analyzerEnabled, win := win }) := by
  have h : exec (fetched (analyzerOp p inCh win)) s
      = .next (State.writeDone (s.writeReg .ctrl (p.ctrlWord inCh win))) := rfl
  rw [h]
  have field : ∀ (n : BitVec 2) (a w : Bool),
      dataField (fieldAt n 0 ||| flagAt a 4 ||| flagAt w 5) 0 2 = n
      ∧ (fieldAt n 0 ||| flagAt a 4 ||| flagAt w 5).getLsbD 4 = a
      ∧ (fieldAt n 0 ||| flagAt a 4 ||| flagAt w 5).getLsbD 5 = w := by decide
  have hw : winOf (winBit win) = win := by cases win <;> rfl
  obtain ⟨h0, h4, h5⟩ := field inCh p.analyzerEnabled (winBit win)
  simp only [State.writeReg, Snapshot.ctrlWord, h0, h4, h5, hw]

end Sys2Proof.Machine.Reference
end

