-- ==== Sys2Proof/Laws/OpenFns.lean ====
section
/-! SUPPORT. The running maximum behind DB20, and the zero words, in the form proofs use. -/

namespace Sys2Proof.Machine

theorem runningMax_zero (g : Nat → Int) : runningMax g 0 = g 0 := by with_unfolding_all rfl

theorem runningMax_succ (g : Nat → Int) (n : Nat) :
    runningMax g (n + 1) = max (runningMax g n) (g (n + 1)) := by with_unfolding_all rfl

/-- A running maximum stays within the function's bounds. -/
theorem runningMax_bounds {g : Nat → Int} {lo hi : Int} (h : ∀ i, lo ≤ g i ∧ g i ≤ hi) (n : Nat) :
    lo ≤ runningMax g n ∧ runningMax g n ≤ hi := by
  induction n with
  | zero =>
    rw [runningMax_zero]
    exact h 0
  | succ n ih =>
    rw [runningMax_succ]
    have := h (n + 1)
    omega

/-- A running maximum never falls. -/
theorem runningMax_mono (g : Nat → Int) {m n : Nat} (h : m ≤ n) : runningMax g m ≤ runningMax g n := by
  induction h with
  | refl => exact le_refl _
  | step _ ih =>
    rw [runningMax_succ]
    omega

/-- The words that count as zero (R85). -/
theorem isZero_iff (x : Word) : Binary32.isZero x = true ↔ x = 0x00000000#32 ∨ x = 0x80000000#32 := by
  constructor
  · intro h
    have hf : Binary32.expField x = 0 ∧ Binary32.fracField x = 0 := by simpa [Binary32.isZero] using h
    unfold Binary32.expField Binary32.fracField at hf
    rw [BitVec.extractLsb'_toNat, BitVec.extractLsb'_toNat] at hf
    simp only [Nat.shiftRight_eq_div_pow] at hf
    have hx := x.isLt
    have hz : x.toNat = 0 ∨ x.toNat = 2 ^ 31 := by omega
    rcases hz with hz | hz
    · exact Or.inl (BitVec.eq_of_toNat_eq hz)
    · exact Or.inr (BitVec.eq_of_toNat_eq hz)
  · rintro (rfl | rfl) <;> decide

end Sys2Proof.Machine
end

