-- ==== Sys2Proof/Laws/Operands.lean ====
section
/-! SUPPORT. The address map and the coefficient accessors in the form proofs use. -/

namespace Sys2Proof.Machine

/-- Word alignment in arithmetic (R83). -/
theorem aligned_iff (a : BusAddr) : aligned a = true ↔ a.toNat % 4 = 0 := by
  unfold aligned
  rw [beq_iff_eq, ← BitVec.toNat_inj]
  simp [BitVec.extractLsb'_toNat]

theorem toNat_ofNat_addr {n : Nat} (h : n < 2 ^ 20) : (BitVec.ofNat 20 n).toNat = n := by
  rw [BitVec.toNat_ofNat]
  exact Nat.mod_eq_of_lt h

/-! ### One lemma per row of the address map (R81) -/

theorem region_ctrl {a : BusAddr} (h : a.toNat < 0x78) :
    ∃ r, ctrlRegs[a.toNat / 4]? = some r ∧ region a = .ctrl r := by
  have h4 : a.toNat / 4 < ctrlRegs.length := by
    simp only [ctrlRegs, List.length_cons, List.length_nil]
    omega
  refine ⟨ctrlRegs[a.toNat / 4], List.getElem?_eq_getElem h4, ?_⟩
  unfold region
  dsimp only
  rw [if_pos h, List.getElem?_eq_getElem h4]

theorem region_shCoef {a : BusAddr} (h : 0x100 ≤ a.toNat ∧ a.toNat < 0x1DC) :
    region a = .shCoef (Fin.ofNat 11 ((a.toNat - 0x100) / 0x14)) (Fin.ofNat 5 ((a.toNat - 0x100) % 0x14 / 4)) := by
  unfold region
  dsimp only
  rw [if_neg (by omega), if_pos h]

theorem region_actCoef {a : BusAddr} (h : 0x200 ≤ a.toNat ∧ a.toNat < 0x2DC) :
    region a = .actCoef (Fin.ofNat 11 ((a.toNat - 0x200) / 0x14)) (Fin.ofNat 5 ((a.toNat - 0x200) % 0x14 / 4)) := by
  unfold region
  dsimp only
  rw [if_neg (by omega), if_neg (by omega), if_pos h]

theorem region_stateView {a : BusAddr} (h : 0x300 ≤ a.toNat ∧ a.toNat < 0x3B0) :
    region a = .stateView (Fin.ofNat 11 ((a.toNat - 0x300) / 0x10)) (chanOf (a.getLsbD 3)) (a.getLsbD 2) := by
  unfold region
  dsimp only
  rw [if_neg (by omega), if_neg (by omega), if_neg (by omega), if_pos h]

theorem region_bufL {a : BusAddr} (h : 0x10000 ≤ a.toNat ∧ a.toNat < 0x18000) :
    region a = .buf .L ((a.toNat - 0x10000) / 4) := by
  unfold region
  dsimp only
  rw [if_neg (by omega), if_neg (by omega), if_neg (by omega), if_neg (by omega), if_pos h]

theorem region_bufR {a : BusAddr} (h : 0x18000 ≤ a.toNat ∧ a.toNat < 0x20000) :
    region a = .buf .R ((a.toNat - 0x18000) / 4) := by
  unfold region
  dsimp only
  rw [if_neg (by omega), if_neg (by omega), if_neg (by omega), if_neg (by omega), if_neg (by omega), if_pos h]

theorem region_specL {a : BusAddr} (h : 0x20000 ≤ a.toNat ∧ a.toNat < 0x24000) :
    region a = .spec .L ((a.toNat - 0x20000) / 4) := by
  unfold region
  dsimp only
  rw [if_neg (by omega), if_neg (by omega), if_neg (by omega), if_neg (by omega), if_neg (by omega),
    if_neg (by omega), if_pos h]

theorem region_specR {a : BusAddr} (h : 0x24000 ≤ a.toNat ∧ a.toNat < 0x28000) :
    region a = .spec .R ((a.toNat - 0x24000) / 4) := by
  unfold region
  dsimp only
  rw [if_neg (by omega), if_neg (by omega), if_neg (by omega), if_neg (by omega), if_neg (by omega),
    if_neg (by omega), if_neg (by omega), if_pos h]

/-- Only an offset below 0x78 names a register (R81). -/
theorem region_ctrl_only {a : BusAddr} {r : CtrlReg} (h : region a = .ctrl r) :
    a.toNat < 0x78 ∧ ctrlRegs[a.toNat / 4]? = some r := by
  by_cases hn : a.toNat < 0x78
  · refine ⟨hn, ?_⟩
    obtain ⟨q, h1, h2⟩ := region_ctrl hn
    rw [h1]; rw [h2] at h; cases h; rfl
  · exfalso
    unfold region at h
    simp only [hn, if_false] at h
    repeat' split at h
    all_goals cases h

/-- A register stands at one place of the register map (R32). -/
theorem region_ctrl_index {k : Nat} {r : CtrlReg} (h : ctrlRegs[k]? = some r) : k = ctrlRegs.idxOf r := by
  have hk : k < ctrlRegs.length := (List.getElem?_eq_some_iff.mp h).1
  have hg := (List.getElem?_eq_some_iff.mp h).2
  rw [← hg]
  exact ((by decide : ctrlRegs.Nodup).idxOf_getElem k hk).symm

/-- A word address names a register exactly if it is the register's (R32, R81). -/
theorem region_ctrl_iff {a : BusAddr} (ha : a.toNat % 4 = 0) (r : CtrlReg) :
    region a = .ctrl r ↔ a = ctrlAddr r := by
  constructor
  · intro h
    obtain ⟨hn, hr⟩ := region_ctrl_only h
    apply BitVec.eq_of_toNat_eq
    unfold ctrlAddr
    rw [← region_ctrl_index hr, BitVec.toNat_ofNat]
    omega
  · rintro rfl
    cases r with
    | specSeq c => cases c <;> decide
    | fifoPtr c => cases c <;> decide
    | fifoStg c => cases c <;> decide
    | fifoDrop c => cases c <;> decide
    | _ => decide

/-- Only the offsets 0x100..0x1DB name the shadow bank (R81). -/
theorem region_shCoef_only {a : BusAddr} {b : Fin 11} {k : Fin 5} (h : region a = .shCoef b k) :
    0x100 ≤ a.toNat ∧ a.toNat < 0x1DC := by
  unfold region at h
  dsimp only at h
  repeat' split at h
  all_goals first | (cases h; done) | assumption

/-- The addresses that refuse access while BUSY_A = 1 (R87). -/
theorem busyRefused_iff (a : BusAddr) : (region a).busyRefused = true ↔
    ((0x300 ≤ a.toNat ∧ a.toNat < 0x3B0) ∨ (0x10000 ≤ a.toNat ∧ a.toNat < 0x20000)) := by
  constructor
  · intro h
    unfold region at h
    dsimp only at h
    split at h
    · split at h <;> cases h
    · split at h; · cases h
      split at h; · cases h
      split at h; · left; omega
      split at h; · right; omega
      split at h; · right; omega
      split at h; · cases h
      split at h; · cases h
      cases h
  · rintro (h | h)
    · rw [region_stateView h]
      rfl
    · rcases Nat.lt_or_ge a.toNat 0x18000 with h2 | h2
      · rw [region_bufL ⟨h.1, h2⟩]
        rfl
      · rw [region_bufR ⟨h2, h.2⟩]
        rfl

/-- Reading a coefficient after setting one (R50). -/
theorem Coefs.get_set (x : Coefs) (k k' : Fin 5) (v : Word) :
    (x.set k v).get k' = if k' = k then v else x.get k' := by
  fin_cases k <;> fin_cases k' <;> rfl

end Sys2Proof.Machine
end

