-- ==== Sys2Proof/Laws/Parameters.lean ====
section
/-! SUPPORT. What an operation of HOST and an agent's turn do to PCHG and the parameters, said once (spec 10_state.md
R42). -/

namespace Sys2Proof.Machine

/-- PCHG, the shadow bank and the shadow bypass state of two states are the same. -/
def SameParameters (s t : State) : Prop :=
  t.pchg = s.pchg ∧ t.shCoef = s.shCoef ∧ t.bypass = s.bypass ∧ t.lcCfg = s.lcCfg ∧ t.hcCfg = s.hcCfg

/-- What a command does to the parameters. -/
theorem command_parameters {i : Instr} (hr : ∀ a, i ≠ .regRead a) (hw : ∀ a strb v, i ≠ .regWrite a strb v) {s t : State}
    (h : exec i s = .next t) :
    if setsParameter i = true then t.pchg = true else SameParameters s t := by
  cases i with
  | nop => cases h; exact ⟨rfl, rfl, rfl, rfl, rfl⟩
  | prepare =>
    simp only [exec, execPrepare] at h
    split at h
    · cases h; exact ⟨rfl, rfl, rfl, rfl, rfl⟩
    · split at h <;> (cases h; exact ⟨rfl, rfl, rfl, rfl, rfl⟩)
  | release =>
    simp only [exec, execRelease] at h
    split at h <;> (cases h; exact ⟨rfl, rfl, rfl, rfl, rfl⟩)
  | process n =>
    simp only [exec, execProcess] at h
    split at h
    · cases h; exact ⟨rfl, rfl, rfl, rfl, rfl⟩
    · split at h
      · cases h; exact ⟨rfl, rfl, rfl, rfl, rfl⟩
      · split at h
        · cases h; exact ⟨rfl, rfl, rfl, rfl, rfl⟩
        · cases h
          simp only [setsParameter, Bool.false_eq_true, if_false, SameParameters]
          rw [processEffect_eq]
          exact ⟨rfl, rfl, rfl, rfl, rfl⟩
  | tick =>
    simp only [exec, execTick] at h
    split at h <;> (cases h; exact ⟨rfl, rfl, rfl, rfl, rfl⟩)
  | clrErr => cases h; exact ⟨rfl, rfl, rfl, rfl, rfl⟩
  | setSlope cut k => cases h; cases cut <;> rfl
  | setSubByp cut idx w => cases h; cases cut <;> rfl
  | setByp stage w =>
    simp only [exec, execSetByp] at h
    split at h
    · rename_i hs; cases h; simp [setsParameter, hs, SameParameters]
    · rename_i hs; cases h; simp [setsParameter, hs, State.writeDone]
  | regRead a => exact absurd rfl (hr a)
  | regWrite a strb v => exact absurd rfl (hw a strb v)

/-- What executing the word of a command does to the parameters. -/
theorem executeCommandWord_parameters {i : Instr} {v : Word} (hd : decodeCommand v = .ok i) {s t : State}
    (h : executeCommandWord v s = .next t) : if setsParameter i = true then t.pchg = true else SameParameters s t := by
  unfold executeCommandWord at h
  rw [hd] at h
  cases i with
  | regRead a => cases h; exact ⟨rfl, rfl, rfl, rfl, rfl⟩
  | regWrite a strb v => cases h; exact ⟨rfl, rfl, rfl, rfl, rfl⟩
  | _ => exact command_parameters (by simp) (by simp) h

/-- A REG_READ changes PCHG only at PARAM_CHG, where it clears it, and no parameter (R42, R130). -/
theorem regRead_parameters {a : BusAddr} {s t : State} (h : exec (.regRead a) s = .next t) :
    if a = 0x01C#20 then t.pchg = false ∧ SameParameters { s with pchg := false } t else SameParameters s t := by
  change execRegRead a s = _ at h
  unfold execRegRead at h
  split at h
  · rename_i code hf
    cases h
    rw [if_neg]
    · exact ⟨rfl, rfl, rfl, rfl, rfl⟩
    · rintro rfl
      have : readFailure s 0x01C#20 = none := rfl
      rw [this] at hf; cases hf
  · rename_i hf
    cases h
    have ha : a.toNat % 4 = 0 := by
      by_contra hc
      have : aligned a = false := by rw [Bool.eq_false_iff]; exact fun h => hc ((aligned_iff a).mp h)
      simp [readFailure, this] at hf
    have hp : region a = .ctrl .paramChg ↔ a = 0x01C#20 := region_ctrl_iff ha _
    by_cases hr : region a = .ctrl .paramChg
    · rw [if_pos (hp.mp hr), readSideEffect, if_pos hr]
      exact ⟨rfl, rfl, rfl, rfl, rfl, rfl⟩
    · rw [if_neg (fun hc => hr (hp.mpr hc)), readSideEffect, if_neg hr]
      exact ⟨rfl, rfl, rfl, rfl, rfl⟩

/-- A REG_WRITE sets PCHG if it is a parameter write, and leaves PCHG and the parameters else (R42, R131). -/
theorem regWrite_parameters {a : BusAddr} {strb : BitVec 4} {v : Word} {s t : State}
    (h : exec (.regWrite a strb v) s = .next t) :
    (regWriteWritesParameter a strb v → t.pchg = true) ∧ (¬regWriteWritesParameter a strb v → SameParameters s t) := by
  change execRegWrite a strb v s = _ at h
  unfold execRegWrite at h
  split at h
  · rename_i code hf
    cases h
    refine ⟨fun hw => ?_, fun _ => ⟨rfl, rfl, rfl, rfl, rfl⟩⟩
    exfalso
    obtain ⟨rfl, hw⟩ := hw
    have : writeFailure s a 0xF#4 = none := by
      rcases hw with rfl | rfl | rfl | ⟨h4, h1, h2⟩ | ⟨rfl, _⟩
      · rfl
      · rfl
      · rfl
      · have := (aligned_iff a).mpr h4
        simp [writeFailure, this, region_shCoef ⟨h1, h2⟩, Region.writeRefused, Region.busyRefused]
      · rfl
    rw [this] at hf; cases hf
  · rename_i hf
    have ha : a.toNat % 4 = 0 := by
      by_contra hc
      have : aligned a = false := by rw [Bool.eq_false_iff]; exact fun h => hc ((aligned_iff a).mp h)
      simp [writeFailure, this] at hf
    have hs : strb = 0xF#4 := by
      by_contra hne
      simp [writeFailure, hne] at hf
    split at h
    · rename_i hr
      have hac := (region_ctrl_iff ha _).mp hr
      have hi : regWriteWritesParameter a strb v ↔ ∃ i, decodeCommand v = .ok i ∧ setsParameter i = true := by
        subst hac hs
        unfold regWriteWritesParameter
        have : ctrlAddr .cmd = 0x008#20 := rfl
        rw [this]; simp
      cases hd : decodeCommand v with
      | error e =>
        unfold executeCommandWord at h
        rw [hd] at h; cases h
        rw [hi]; simp [hd]; exact ⟨rfl, rfl, rfl, rfl, rfl⟩
      | ok i =>
        have := executeCommandWord_parameters hd h
        rw [hi]
        constructor
        · rintro ⟨j, hj, hsj⟩
          rw [hd] at hj; cases hj
          rwa [if_pos hsj] at this
        · intro hn
          rwa [if_neg (fun hc => hn ⟨i, hd, hc⟩)] at this
    · rename_i hr
      injection h with h
      have hnc : a ≠ 0x008#20 := fun hc => hr ((region_ctrl_iff ha _).mpr hc)
      have hi : regWriteWritesParameter a strb v ↔
          region a = .ctrl .bypass ∨ region a = .ctrl .lcCfg ∨ region a = .ctrl .hcCfg
            ∨ ∃ b k, region a = .shCoef b k := by
        have e : (∃ b k, region a = .shCoef b k) ↔ 0x100 ≤ a.toNat ∧ a.toNat < 0x1DC :=
          ⟨fun ⟨b, k, h⟩ => region_shCoef_only h, fun h => ⟨_, _, region_shCoef h⟩⟩
        rw [e, region_ctrl_iff ha, region_ctrl_iff ha, region_ctrl_iff ha]
        unfold regWriteWritesParameter
        have e1 : ctrlAddr .bypass = 0x030#20 := rfl
        have e2 : ctrlAddr .lcCfg = 0x034#20 := rfl
        have e3 : ctrlAddr .hcCfg = 0x038#20 := rfl
        rw [e1, e2, e3]
        simp [hs, ha, hnc]
      rw [hi]
      subst h
      generalize region a = r
      cases r with
      | ctrl r =>
        cases r <;> first
          | exact ⟨fun _ => rfl, fun hn => absurd (by simp) hn⟩
          | exact ⟨fun hc => by simp at hc, fun _ => ⟨rfl, rfl, rfl, rfl, rfl⟩⟩
          | (refine ⟨fun hc => by simp at hc, fun _ => ?_⟩
             simp only [State.writeRegion, State.writeReg]
             split <;> exact ⟨rfl, rfl, rfl, rfl, rfl⟩)
      | shCoef b k => exact ⟨fun _ => rfl, fun hn => absurd (by simp) hn⟩
      | buf c j => exact ⟨fun hc => by simp at hc, fun _ => ⟨rfl, rfl, rfl, rfl, rfl⟩⟩
      | actCoef b k => exact ⟨fun hc => by simp at hc, fun _ => ⟨rfl, rfl, rfl, rfl, rfl⟩⟩
      | stateView b c x => exact ⟨fun hc => by simp at hc, fun _ => ⟨rfl, rfl, rfl, rfl, rfl⟩⟩
      | spec c k => exact ⟨fun hc => by simp at hc, fun _ => ⟨rfl, rfl, rfl, rfl, rfl⟩⟩
      | unmapped => exact ⟨fun hc => by simp at hc, fun _ => ⟨rfl, rfl, rfl, rfl, rfl⟩⟩

/-- What an operation of HOST does to PCHG and the parameters (R42). -/
theorem exec_parameters {i : Instr} {s t : State} (h : exec i s = .next t) :
    (WritesParameter i → t.pchg = true)
    ∧ (i = .regRead 0x01C#20 → t.pchg = false ∧ SameParameters { s with pchg := false } t)
    ∧ (¬WritesParameter i → i ≠ .regRead 0x01C#20 → SameParameters s t) := by
  by_cases hr : ∃ a, i = .regRead a
  · obtain ⟨a, rfl⟩ := hr
    have := regRead_parameters h
    refine ⟨fun hc => ?_, fun he => ?_, fun _ hn => ?_⟩
    · rcases hc with hc | ⟨_, _, _, he, _⟩
      · cases hc
      · cases he
    · injection he with he
      rwa [if_pos he] at this
    · rwa [if_neg (fun hc => hn (by rw [hc]))] at this
  · by_cases hw : ∃ a strb v, i = .regWrite a strb v
    · obtain ⟨a, strb, v, rfl⟩ := hw
      obtain ⟨h1, h2⟩ := regWrite_parameters h
      refine ⟨fun hc => ?_, fun he => (by cases he), fun hn _ => h2 fun hc => hn (.inr ⟨_, _, _, rfl, hc⟩)⟩
      rcases hc with hc | ⟨_, _, _, he, hc⟩
      · cases hc
      · cases he
        exact h1 hc
    · have := command_parameters (fun a hc => hr ⟨a, hc⟩) (fun a strb v hc => hw ⟨a, strb, v, hc⟩) h
      refine ⟨fun hc => ?_, fun he => absurd ⟨_, he⟩ hr, fun hn _ => ?_⟩
      · rcases hc with hc | ⟨_, _, _, he, _⟩
        · rwa [if_pos hc] at this
        · exact absurd ⟨_, _, _, he⟩ hw
      · rwa [if_neg (fun hc => hn (.inl hc))] at this

/-- No agent's turn touches PCHG or a parameter (R42). -/
theorem turn_parameters (a : Agent) (s : State) : SameParameters s (turn a s) := by
  cases a with
  | audio => simp only [turn]; rw [audioTurn_frame]; exact ⟨rfl, rfl, rfl, rfl, rfl⟩
  | render => simp only [turn]; rw [renderTurn_frame]; exact ⟨rfl, rfl, rfl, rfl, rfl⟩
  | timer => simp only [turn]; rw [timerTurn_frame]; exact ⟨rfl, rfl, rfl, rfl, rfl⟩
  | syncW c v => simp only [turn]; rw [syncWTurn_frame]; cases c <;> exact ⟨rfl, rfl, rfl, rfl, rfl⟩
  | syncR c v => simp only [turn]; rw [syncRTurn_frame]; cases c <;> exact ⟨rfl, rfl, rfl, rfl, rfl⟩

end Sys2Proof.Machine
end

