-- ==== Sys2Proof/Laws/PerInstr.lean ====
section
/-! SUPPORT. One fact about every operation as syntax: its encoded form lies in its row of the opcode map (R114). -/

namespace Sys2Proof.Laws

/-- The mask and match of the row an operation belongs to: of the command word for a command, of the 21-bit descriptor
for a bus transaction (R114). -/
def Opcode.row : Instr → Nat × Nat
  | .nop => (0xFFFFFFFF, 0x00000000)
  | .prepare => (0xFFFFFFFF, 0x10000000)
  | .release => (0xFFFFFFFF, 0x20000000)
  | .process _ => (0xFFFFC000, 0x30000000)
  | .setSlope _ _ => (0xFFFFFEFC, 0x40000000)
  | .tick => (0xFFFFFFFF, 0x50000000)
  | .clrErr => (0xFFFFFFFF, 0x60000000)
  | .setByp _ _ => (0xFFFFFFE0, 0x70000000)
  | .setSubByp _ _ _ => (0xFFFFFEEC, 0x80000000)
  | .regRead _ => (0x100000, 0x000000)
  | .regWrite _ _ _ => (0x100000, 0x100000)

/-- The encoded form has the bits of its row. -/
def Opcode.inRow (i : Instr) : Bool :=
  match encode i with
  | .cmd w => w &&& BitVec.ofNat 32 (Opcode.row i).1 == BitVec.ofNat 32 (Opcode.row i).2
  | .bus d _ _ => d &&& BitVec.ofNat 21 (Opcode.row i).1 == BitVec.ofNat 21 (Opcode.row i).2

/-- The encoded form of an operation has the bits of its row. -/
def Opcode.Statement (i : Instr) : Prop := Opcode.inRow i = true

/-- A masked word bit by bit. -/
theorem and_eq_of_bits {n : Nat} {v m x : BitVec n} (h : ∀ i < n, (v.getLsbD i && m.getLsbD i) = x.getLsbD i) :
    v &&& m = x := by
  apply BitVec.eq_of_getLsbD_eq
  intro i hi
  rw [BitVec.getLsbD_and]
  exact h i hi

theorem Opcode.nop : Opcode.Statement .nop := rfl

theorem Opcode.prepare : Opcode.Statement .prepare := rfl

theorem Opcode.release : Opcode.Statement .release := rfl

theorem Opcode.process (n : BitVec 14) : Opcode.Statement (.process n) := by
  refine beq_iff_eq.mpr (and_eq_of_bits fun i hi => ?_)
  show (_ && (0xFFFFC000#32).getLsbD i) = (0x30000000#32).getLsbD i
  rw [BitVec.getLsbD_append]
  by_cases h : i < 14
  · have hm : ∀ k < 14, (0xFFFFC000#32).getLsbD k = false ∧ (0x30000000#32).getLsbD k = false := by decide
    rw [(hm i h).1, (hm i h).2, Bool.and_false]
  · have hm : ∀ k < 32, ¬k < 14 →
        ((3#4 ++ 0#14 : BitVec 18).getLsbD (k - 14) && (0xFFFFC000#32).getLsbD k) = (0x30000000#32).getLsbD k := by
      decide
    rw [if_neg h]
    exact hm i hi h

theorem Opcode.setSlope (cut : Cut) (k : BitVec 2) : Opcode.Statement (.setSlope cut k) := by
  cases cut <;> (revert k; unfold Opcode.Statement; decide)

theorem Opcode.tick : Opcode.Statement .tick := rfl

theorem Opcode.clrErr : Opcode.Statement .clrErr := rfl

theorem Opcode.setByp (stage : BitVec 4) (v : Bool) : Opcode.Statement (.setByp stage v) := by
  revert stage v
  unfold Opcode.Statement
  decide

theorem Opcode.setSubByp (cut : Cut) (idx : BitVec 2) (v : Bool) : Opcode.Statement (.setSubByp cut idx v) := by
  cases cut <;> (revert idx v; unfold Opcode.Statement; decide)

/-- A descriptor's top bit is its first field. -/
theorem desc_and (b : BitVec 1) (addr : BusAddr) : (b ++ addr : BitVec 21) &&& 0x100000#21 = b ++ 0#20 := by
  apply and_eq_of_bits
  intro i hi
  rw [BitVec.getLsbD_append, BitVec.getLsbD_append]
  by_cases h : i < 20
  · have hm : ∀ k < 20, (0x100000#21).getLsbD k = false := by decide
    simp [h, hm i h]
  · have e : i = 20 := by omega
    subst e
    simp

theorem Opcode.regRead (addr : BusAddr) : Opcode.Statement (.regRead addr) := by
  have e : (0#1 ++ 0#20 : BitVec 21) = 0x000000#21 := by decide
  have h : (0#1 ++ addr : BitVec 21) &&& 0x100000#21 = 0x000000#21 := (desc_and 0#1 addr).trans e
  exact beq_iff_eq.mpr h

theorem Opcode.regWrite (addr : BusAddr) (strb : BitVec 4) (data : Word) :
    Opcode.Statement (.regWrite addr strb data) := by
  have e : (1#1 ++ 0#20 : BitVec 21) = 0x100000#21 := by decide
  have h : (1#1 ++ addr : BitVec 21) &&& 0x100000#21 = 0x100000#21 := (desc_and 1#1 addr).trans e
  exact beq_iff_eq.mpr h

end Sys2Proof.Laws
end

