-- ==== Sys2Proof/Laws/Progress.lean ====
section
/-! SUPPORT. What an operation of HOST and an agent's turn do to the sequencers, the channels and the inputs, said once:
the statements about runs (R21, R226, R275) rest on these. -/

namespace Sys2Proof.Machine

/-! ### Operations of HOST -/

@[simp] theorem writeRegion_ch (s : State) (r : Region) (v : Word) (c : Chan) : (s.writeRegion r v).ch c = s.ch c := by
  cases r with
  | ctrl r =>
    cases r <;>
      first | (cases c <;> rfl) | (simp only [State.writeRegion, State.writeReg]; split <;> cases c <;> rfl)
  | _ => cases c <;> rfl

/-- A write of a location that takes data changes neither sequencer, nor the counter of blocks, nor what is to come. -/
theorem writeRegion_sequencers (s : State) (r : Region) (v : Word) :
    (s.writeRegion r v).astate = s.astate ∧ (s.writeRegion r v).rstate = s.rstate
      ∧ (s.writeRegion r v).blkCnt = s.blkCnt ∧ (s.writeRegion r v).inputs = s.inputs := by
  cases r with
  | ctrl r =>
    cases r <;>
      first
        | exact ⟨rfl, rfl, rfl, rfl⟩
        | (simp only [State.writeRegion, State.writeReg]; split <;> exact ⟨rfl, rfl, rfl, rfl⟩)
  | _ => exact ⟨rfl, rfl, rfl, rfl⟩

/-- An operation of HOST leaves RENDER's sequencer and what is to come. -/
theorem HostEffect.rstate_inputs {s t : State} (h : HostEffect s t) : t.rstate = s.rstate ∧ t.inputs = s.inputs := by
  cases h with
  | process n _ _ _ => rw [processEffect_eq]; exact ⟨rfl, rfl⟩
  | setCut cut x => cases cut <;> exact ⟨rfl, rfl⟩
  | read a ok => unfold readSideEffect; split <;> exact ⟨rfl, rfl⟩
  | write a v ok notCmd =>
    have h := writeRegion_sequencers s (region a) v
    exact ⟨h.2.1, h.2.2.2⟩
  | _ => exact ⟨rfl, rfl⟩

/-- While AUDIO is in a block an operation of HOST leaves its sequencer and BLK_CNT. -/
theorem HostEffect.astate_of_busy {s t : State} (h : HostEffect s t) (busy : s.astate ≠ .idle) :
    t.astate = s.astate ∧ t.blkCnt = s.blkCnt := by
  cases h with
  | prepare idle legal => simp [State.engineActive, State.busyA, busy] at idle
  | process n _ idle _ => simp [State.busyA, busy] at idle
  | setCut cut x => cases cut <;> exact ⟨rfl, rfl⟩
  | read a ok => unfold readSideEffect; split <;> exact ⟨rfl, rfl⟩
  | write a v ok notCmd =>
    have h := writeRegion_sequencers s (region a) v
    exact ⟨h.1, h.2.2.1⟩
  | _ => exact ⟨rfl, rfl⟩

/-- An operation of HOST leaves the channels, but that PREPARE, with both engines idle, re-initialises them. -/
theorem HostEffect.channels {s t : State} (h : HostEffect s t) :
    (∀ c, t.ch c = s.ch c) ∨ (s.engineActive = false ∧ ∀ c, t.ch c = (s.ch c).prepared) := by
  cases h with
  | prepare idle legal => exact .inr ⟨idle, fun c => by cases c <;> rfl⟩
  | process n _ _ _ => exact .inl fun c => by rw [processEffect_eq]; cases c <;> rfl
  | setCut cut x => exact .inl fun c => by cases cut <;> cases c <;> rfl
  | read a ok => exact .inl fun c => by unfold readSideEffect; split <;> cases c <;> rfl
  | write a v ok notCmd =>
    refine .inl fun c => ?_
    rw [← writeRegion_ch s (region a) v c]
    cases c <;> rfl
  | _ => exact .inl fun c => by cases c <;> rfl

/-! ### Turns -/

/-- Only AUDIO's turn moves AUDIO's sequencer or counts a block. -/
theorem turn_astate_of_other {a : Agent} (h : a ≠ .audio) (s : State) :
    (turn a s).astate = s.astate ∧ (turn a s).blkCnt = s.blkCnt := by
  cases a with
  | audio => exact absurd rfl h
  | render => simp only [turn]; rw [renderTurn_frame]; exact ⟨rfl, rfl⟩
  | timer => simp only [turn]; rw [timerTurn_frame]; exact ⟨rfl, rfl⟩
  | syncW c v => simp only [turn]; rw [syncWTurn_frame]; simp
  | syncR c v => simp only [turn]; rw [syncRTurn_frame]; simp

/-- Only RENDER's turn moves RENDER's sequencer or a read pointer. -/
theorem turn_rstate_of_other {a : Agent} (h : a ≠ .render) (s : State) :
    (turn a s).rstate = s.rstate ∧ ∀ c, ((turn a s).ch c).rptr = (s.ch c).rptr := by
  cases a with
  | audio =>
    refine ⟨?_, fun c => ?_⟩
    · simp only [turn]; rw [audioTurn_frame]
    · simp only [turn]; rw [audioTurn_channel]
  | render => exact absurd rfl h
  | timer => simp only [turn]; rw [timerTurn_frame]; exact ⟨rfl, fun c => by cases c <;> rfl⟩
  | syncW d v =>
    simp only [turn]; rw [syncWTurn_frame]
    exact ⟨by simp, fun c => by cases c <;> cases d <;> rfl⟩
  | syncR d v =>
    simp only [turn]; rw [syncRTurn_frame]
    exact ⟨by simp, fun c => by cases c <;> cases d <;> rfl⟩

/-- No turn changes what is to come. -/
theorem turn_inputs (a : Agent) (s : State) : (turn a s).inputs = s.inputs := by
  cases a with
  | audio => simp only [turn]; rw [audioTurn_frame]
  | render => simp only [turn]; rw [renderTurn_frame]
  | timer => simp only [turn]; rw [timerTurn_frame]
  | syncW c v => simp only [turn]; rw [syncWTurn_frame]; simp
  | syncR c v => simp only [turn]; rw [syncRTurn_frame]; simp

/-- AUDIO_SAMPLE moves on by one sample. -/
theorem turn_audio_sample {s : State} {j n : Nat} (h : s.astate = .run j n) (hj : j < n) :
    (turn .audio s).astate = .run (j + 1) n ∧ (turn .audio s).blkCnt = s.blkCnt := by
  simp only [turn, audioTurn, h]
  rw [if_pos hj, audioSample_eq]
  exact ⟨rfl, rfl⟩

/-- AUDIO_DONE ends the block. -/
theorem turn_audio_done {s : State} {n : Nat} (h : s.astate = .run n n) :
    (turn .audio s).astate = .idle ∧ (turn .audio s).blkCnt = s.blkCnt + 1 := by
  simp only [turn, audioTurn, h]
  rw [if_neg (by omega), if_pos trivial]
  exact ⟨rfl, rfl⟩

/-- The most turns RENDER still takes before its tick ends: at most two for every frame it may still pull, one to go on
from each channel (R275). -/
def ticksLeft : RenderState → Nat
  | .idle => 0
  | .pull .L left => 2 * left + 62
  | .fft .L left => 2 * left + 63
  | .pull .R left => 2 * left + 1
  | .fft .R left => 2 * left + 2

theorem ticksLeft_eq_zero (r : RenderState) : ticksLeft r = 0 ↔ r = .idle := by
  cases r with
  | idle => simp [ticksLeft]
  | pull c left => cases c <;> simp [ticksLeft]
  | fft c left => cases c <;> simp [ticksLeft]

/-- Inside a tick every turn of RENDER brings its end nearer (R274, R275, R276). -/
theorem turn_render_nearer {s : State} (h : s.rstate ≠ .idle) :
    ticksLeft (turn .render s).rstate < ticksLeft s.rstate := by
  simp only [turn, renderTurn]
  cases hr : s.rstate with
  | idle => exact absurd hr h
  | pull c left =>
    simp only
    split
    · rename_i hp
      rw [renderPull_eq s c left hp.2]
      cases c <;> (simp only [ticksLeft]; omega)
    · cases c <;> simp only [renderNext, ticksLeft, Config.pullsPerTick] <;> omega
  | fft c left => cases c <;> (simp only [renderFft, ticksLeft]; omega)

/-- What a turn does to a channel's views: a synchroniser's turn may deliver a value, nothing else moves one. -/
theorem turn_wview (a : Agent) (s : State) (c : Chan) :
    ((turn a s).ch c).wview = (s.ch c).wview
      ∨ ∃ v, a = .syncW c v ∧ viewMayBe (s.ch c).wview (s.ch c).wptr v = true ∧ ((turn a s).ch c).wview = v := by
  cases a with
  | audio => left; simp only [turn]; rw [audioTurn_channel]
  | render => left; simp only [turn]; rw [renderTurn_channel]
  | timer => left; simp only [turn]; rw [timerTurn_frame]; cases c <;> rfl
  | syncR d v => left; simp only [turn]; rw [syncRTurn_frame]; cases c <;> cases d <;> rfl
  | syncW d v =>
    simp only [turn, syncWTurn]
    split
    · rename_i hv
      by_cases hd : c = d
      · subst hd
        exact .inr ⟨v, rfl, hv, by simp⟩
      · left; cases c <;> cases d <;> first | rfl | exact absurd rfl hd
    · exact .inl rfl

theorem turn_rview (a : Agent) (s : State) (c : Chan) :
    ((turn a s).ch c).rview = (s.ch c).rview
      ∨ ∃ v, a = .syncR c v ∧ viewMayBe (s.ch c).rview (s.ch c).rptr v = true ∧ ((turn a s).ch c).rview = v := by
  cases a with
  | audio => left; simp only [turn]; rw [audioTurn_channel]
  | render => left; simp only [turn]; rw [renderTurn_channel]
  | timer => left; simp only [turn]; rw [timerTurn_frame]; cases c <;> rfl
  | syncW d v => left; simp only [turn]; rw [syncWTurn_frame]; cases c <;> cases d <;> rfl
  | syncR d v =>
    simp only [turn, syncRTurn]
    split
    · rename_i hv
      by_cases hd : c = d
      · subst hd
        exact .inr ⟨v, rfl, hv, by simp⟩
      · left; cases c <;> cases d <;> first | rfl | exact absurd rfl hd
    · exact .inl rfl

end Sys2Proof.Machine
end

