-- ==== Sys2Proof/Laws/Schedule.lean ====
section
/-! SUPPORT. The agents' own schedule: every agent's turn comes again and again, and a turn it gives is enabled whenever
the agent has an enabled step (spec 00_scope.md R21). -/

namespace Sys2Proof.Machine

/-- A step of the clock: a forced turn ends a round, any other moment brings the next forced turn nearer. -/
theorem fairRound_succ_forced {t r : Nat} (h : fairRound t = (r, 0)) :
    fairRound (t + 1) = (r + 1, Config.patience (r + 1)) := by simp [fairRound, h]

theorem fairRound_succ_free {t r w : Nat} (h : fairRound t = (r, w + 1)) : fairRound (t + 1) = (r, w) := by
  simp [fairRound, h]

/-- The forced turn of the round under way comes. -/
theorem fairRound_reaches_forced (w t r : Nat) (h : fairRound t = (r, w)) : fairRound (t + w) = (r, 0) := by
  induction w generalizing t with
  | zero => exact h
  | succ w ih =>
    have := ih (t + 1) (fairRound_succ_free h)
    rwa [show t + 1 + w = t + (w + 1) by omega] at this

/-- The forced turn of every later round comes. -/
theorem fairRound_reaches_round (d t r w : Nat) (h : fairRound t = (r, w)) :
    ∃ t', t ≤ t' ∧ fairRound t' = (r + d, 0) := by
  induction d with
  | zero => exact ⟨t + w, by omega, fairRound_reaches_forced w t r h⟩
  | succ d ih =>
    obtain ⟨t', ht, h'⟩ := ih
    exact ⟨t' + 1 + Config.patience (r + d + 1), by omega,
      fairRound_reaches_forced _ _ _ (fairRound_succ_forced h')⟩

theorem agentNames_complete (x : AgentName) : ∃ i, i < 7 ∧ agentNames.getD i .audio = x := by
  cases x with
  | audio => exact ⟨0, by decide, rfl⟩
  | render => exact ⟨1, by decide, rfl⟩
  | timer => exact ⟨2, by decide, rfl⟩
  | syncW c => cases c with
    | L => exact ⟨3, by decide, rfl⟩
    | R => exact ⟨4, by decide, rfl⟩
  | syncR c => cases c with
    | L => exact ⟨5, by decide, rfl⟩
    | R => exact ⟨6, by decide, rfl⟩

/-- Every agent's turn comes again after every moment, whatever the free choices are. -/
theorem scheduledName_recurs (x : AgentName) (t : Nat) : ∃ t', t ≤ t' ∧ scheduledName t' = x := by
  obtain ⟨i, hi, hx⟩ := agentNames_complete x
  obtain ⟨t', ht, h⟩ := fairRound_reaches_round (7 * (fairRound t).1 + i - (fairRound t).1) t _ _ rfl
  refine ⟨t', ht, ?_⟩
  have hr : ((fairRound t).1 + (7 * (fairRound t).1 + i - (fairRound t).1)) % 7 = i := by omega
  simp only [scheduledName, h, hr]
  exact hx

@[simp] theorem scheduled_name (s : State) : s.scheduled.name = scheduledName s.clock := by
  unfold State.scheduled
  split <;> simp_all [Agent.name]

/-- What a synchroniser delivers by the schedule is allowed whenever anything is. -/
theorem delivery_allowed {view pointer : Ptr} (h : view ≠ pointer) (v : Ptr) :
    viewMayBe view pointer (delivery view pointer v) = true := by
  unfold delivery
  split
  · assumption
  · have : 0 < (pointer - view).val := by
      rcases Nat.eq_zero_or_pos (pointer - view).val with h0 | h0
      · exact absurd (sub_eq_zero.mp (Fin.ext h0)).symm h
      · exact h0
    simp [viewMayBe, this]

/-- A scheduled turn is enabled if its agent has an enabled step. -/
theorem scheduled_enabled {s : State} (h : s.agentEnabled (scheduledName s.clock) = true) :
    s.enabled s.scheduled = true := by
  unfold State.scheduled
  split <;> rename_i hn <;> rw [hn] at h
  · exact h
  · exact h
  · exact h
  · exact delivery_allowed (by simpa [State.agentEnabled] using h) _
  · exact delivery_allowed (by simpa [State.agentEnabled] using h) _

/-- An agent has an enabled step exactly if some turn of it is enabled. -/
theorem agentEnabled_iff (s : State) (x : AgentName) :
    s.agentEnabled x = true ↔ ∃ a : Agent, a.name = x ∧ s.enabled a = true := by
  constructor
  · intro h
    cases x with
    | audio => exact ⟨.audio, rfl, h⟩
    | render => exact ⟨.render, rfl, h⟩
    | timer => exact ⟨.timer, rfl, h⟩
    | syncW c => exact ⟨.syncW c _, rfl, delivery_allowed (by simpa [State.agentEnabled] using h) (s.ch c).wptr⟩
    | syncR c => exact ⟨.syncR c _, rfl, delivery_allowed (by simpa [State.agentEnabled] using h) (s.ch c).rptr⟩
  · rintro ⟨a, rfl, h⟩
    have differ : ∀ view pointer v : Ptr, viewMayBe view pointer v = true → view ≠ pointer := by
      rintro view _ v hv rfl
      simp [viewMayBe] at hv
      omega
    cases a with
    | audio => exact h
    | render => exact h
    | timer => exact h
    | syncW c v => simpa [State.agentEnabled, Agent.name] using differ _ _ _ h
    | syncR c v => simpa [State.agentEnabled, Agent.name] using differ _ _ _ h

/-- A turn whose step is not enabled changes nothing (log 21). -/
theorem turn_without_step {s : State} {a : Agent} (h : s.enabled a = false) : turn a s = s := by
  cases a with
  | audio =>
    simp only [State.enabled, State.audioEnabled] at h
    simp only [turn, audioTurn]
    split at h
    · rfl
    · rename_i j n hr
      simp only [decide_eq_false_iff_not] at h
      simp only [if_neg (show ¬j < n by omega), if_neg (show ¬j = n by omega)]
  | render =>
    simp only [State.enabled, State.renderEnabled] at h
    simp only [turn, renderTurn]
    split at h
    · simp [h]
    · cases h
    · cases h
  | timer => simp only [turn, timerTurn]; rw [show s.timerEnabled = false from h]; rfl
  | syncW c v => simp only [turn, syncWTurn]; rw [show viewMayBe _ _ v = false from h]; rfl
  | syncR c v => simp only [turn, syncRTurn]; rw [show viewMayBe _ _ v = false from h]; rfl

/-- In a state where no agent has an enabled step, no turn changes anything. -/
theorem turn_at_rest {s : State} (h : ∀ x, s.agentEnabled x = false) (a : Agent) : turn a s = s := by
  refine turn_without_step (Bool.eq_false_iff.mpr fun ha => ?_)
  simpa [h] using (agentEnabled_iff s a.name).mpr ⟨a, rfl, ha⟩

/-- What is to come does not enter the agents' own schedule. -/
theorem scheduled_inputs (s : State) (l : List Input) : State.scheduled { s with inputs := l } = s.scheduled := by
  have hch : ∀ c, State.ch { s with inputs := l } c = s.ch c := fun c => by cases c <;> rfl
  unfold State.scheduled
  dsimp only
  split <;> simp only [hch]

/-- What happens at a moment of a run: an operation of HOST, the turn of an agent, or the reset input, on a state that
agrees with the run's in the channels and the sequencers. -/
inductive Run.Moment (r : Run) (n : Nat) : Prop where
  | host (i : Instr) (x : State) (agree : ∀ c, x.ch c = (r.state n).ch c)
      (seqs : x.astate = (r.state n).astate ∧ x.rstate = (r.state n).rstate) (none : r.turnAt n = none)
      (eff : exec i x = .next (r.state (n + 1)))
  | agent (a : Agent) (x : State) (agree : ∀ c, x.ch c = (r.state n).ch c)
      (seqs : x.astate = (r.state n).astate ∧ x.rstate = (r.state n).rstate) (some : r.turnAt n = some a)
      (eff : r.state (n + 1) = turn a x)
  | reset (x : State) (none : r.turnAt n = none) (eff : r.state (n + 1) = hardwareReset x)

theorem Run.moment (r : Run) (n : Nat) : r.Moment n := by
  have h := r.advances n
  cases hi : r.input n with
  | none =>
    rw [hi, step_free (by rfl), scheduled_inputs] at h
    injection h with h
    refine .agent _ _ ?_ ?_ ?_ h.symm
    · exact fun c => by cases c <;> rfl
    · exact ⟨rfl, rfl⟩
    · simp [Run.turnAt, hi]
  | some i =>
    rw [hi] at h
    cases i with
    | bus op =>
      rw [step_bus rfl] at h
      refine .host _ _ ?_ ?_ ?_ h
      · exact fun c => by cases c <;> rfl
      · exact ⟨rfl, rfl⟩
      · simp [Run.turnAt, hi]
    | turn a =>
      rw [step_turn rfl] at h
      injection h with h
      refine .agent a _ ?_ ?_ ?_ h.symm
      · exact fun c => by cases c <;> rfl
      · exact ⟨rfl, rfl⟩
      · simp [Run.turnAt, hi]
    | reset =>
      rw [step_reset rfl] at h
      injection h with h
      refine .reset _ ?_ h.symm
      simp [Run.turnAt, hi]

/-- No turn changes the clock. -/
theorem turn_clock (a : Agent) (s : State) : (turn a s).clock = s.clock := by
  cases a with
  | audio => simp only [turn]; rw [audioTurn_frame]
  | render => simp only [turn]; rw [renderTurn_frame]
  | timer => simp only [turn]; rw [timerTurn_frame]
  | syncW c v => simp only [turn]; rw [syncWTurn_frame]; simp
  | syncR c v => simp only [turn]; rw [syncRTurn_frame]; simp

end Sys2Proof.Machine
end

