-- ==== Sys2Proof/Tests/Slice0.lean ====
section
/-! SUPPORT. Small checks of the model against the vectors of spec 95_test_vectors.md, and for every statement with
hypotheses a concrete state and operands that meet them. The expected words and states are the spec's. -/

namespace Sys2Proof.Tests

open Sys2Proof.Machine

/-- The outcome is a next state with a property. -/
def ok (o : Host.Outcome State Fault Refusal) (p : State → Bool) : Bool :=
  match o with
  | .next t => p t
  | .fault _ => false
  | .refused _ => false

/-- The state right after a PREPARE of the reset configuration: N 2048, F 512, BLK_MAX 512. -/
def prep : State := prepareEffect State.reset

/-- A prepared block with inputs to come. -/
def fed (inputs : List Input) : State := { prep with inputs := inputs }

/-- A prepared block inside a block of samples. -/
def running (j n : Nat) : State := { prep with astate := .run j n }

/-- A prepared block in a tick. -/
def ticking (r : RenderState) : State := { prep with rstate := r }

/-- A channel with given pointers. -/
def fifo (w r wv rv : Ptr) : Channel := { prep.chL with wptr := w, rptr := r, wview := wv, rview := rv }

/-! ### WellFormed, decode, encode (R113–R118; 95_test_vectors 2.2) -/

theorem test_wellFormed_refuses_stage_6 : (Instr.setByp 6 true).wellFormed = false := by decide

theorem test_wellFormed_refuses_stage_15 : (Instr.setByp 15 false).wellFormed = false := by decide

theorem test_wellFormed_accepts_stage_5 : (Instr.setByp 5 true).wellFormed = true := by decide

theorem test_decode_nop : decodeTableWord 32 0b00000000000000000000000000000000 = some .nop := by decide

theorem test_decode_prepare : decodeTableWord 32 0b00010000000000000000000000000000 = some .prepare := by decide

theorem test_decode_release : decodeTableWord 32 0b00100000000000000000000000000000 = some .release := by decide

theorem test_decode_process : decodeTableWord 32 0b00110000000000000000001000000001 = some (.process 513) := by decide

theorem test_decode_setSlope : decodeTableWord 32 0b01000000000000000000000100000010 = some (.setSlope .high 2) := by
  decide

theorem test_decode_tick : decodeTableWord 32 0b01010000000000000000000000000000 = some .tick := by decide

theorem test_decode_clrErr : decodeTableWord 32 0b01100000000000000000000000000000 = some .clrErr := by decide

theorem test_decode_setByp : decodeTableWord 32 0b01110000000000000000000000010101 = some (.setByp 5 true) := by decide

theorem test_decode_setSubByp :
    decodeTableWord 32 0b10000000000000000000000100010010 = some (.setSubByp .high 2 true) := by decide

theorem test_decode_regRead : decodeTableWord 24 0b000010000000000000100 = some (.regRead 0x10004) := by decide

/-- Descriptor 1 at address 0x00018, PSTRB 0b1111 at bits 27..24, PWDATA 0x33 at bits 63..32 (log 3). -/
theorem test_decode_regWrite :
    decodeTableWord 64 ((0x33 <<< 32) + (0b1111 <<< 24) + 0b100000000000000011000)
      = some (.regWrite 0x00018 0xF 0x33) := by decide

theorem test_decode_rejects_E2_E6_E8 :
    decodeCommand 0x00000001 = .error .reservedBit ∧ decodeCommand 0x30004000 = .error .reservedBit
      ∧ decodeCommand 0x40000004 = .error .reservedBit := ⟨rfl, rfl, rfl⟩

theorem test_decode_rejects_E11_E12_E14_E15 :
    decodeCommand 0x70000006 = .error .illegalStage ∧ decodeCommand 0x70000020 = .error .reservedBit
      ∧ decodeCommand 0x80000004 = .error .reservedBit ∧ decodeCommand 0x90000000 = .error .reservedOpcode
      ∧ decodeCommand 0xF0000000 = .error .reservedOpcode := ⟨rfl, rfl, rfl, rfl, rfl⟩

/-- The first operation after reset is the one placed. -/
theorem test_withFetchWord_runs_placed :
    ok (step (State.reset.withFetchWord 32 0x70000013)) (fun t => t.bypass == 0x08 && t.pchg) = true := by decide +kernel

/-! ### Bus transactions (95_test_vectors 2.1) -/

/-- B1, B2, B4, B5, B27. -/
theorem test_regRead_returns :
    [0x000#20, 0x004#20, 0x018#20, 0x074#20, 0x3AC#20].all (fun a =>
      ok (exec (.regRead a) State.reset) (fun t => t.lastErr == .none && t.irqStatus == 0)) = true
    ∧ [0x000#20, 0x004#20, 0x018#20, 0x074#20, 0x3AC#20].map (fun a =>
      match exec (.regRead a) State.reset with
      | .next t => t.resp
      | .fault _ => .none
      | .refused _ => .none)
      = [.read 0x45514C31 false, .read 0x00070000 false, .read 0x12 false, .read 0xEE00 false, .read 0 false] := by
  decide +kernel

/-- B6, B7, B25, B26, B28, B29: a failed read of PARAM_CHG's word keeps PCHG. -/
theorem test_regRead_errors :
    ok (exec (.regRead 0x002) State.reset) (fun t => t.lastErr == .align && t.resp == .read 0 true) = true
    ∧ ok (exec (.regRead 0x01E) { State.reset with pchg := true }) (fun t => t.pchg && t.lastErr == .align) = true
    ∧ [0x080#20, 0x1DC#20, 0x3B0#20, 0x28000#20].all (fun a =>
        ok (exec (.regRead a) State.reset) (fun t => t.lastErr == .addr && t.irqStatus == 0x08)) = true := by
  decide +kernel

/-- B12, B13, B14, B15, B18, B19, B24. -/
theorem test_regWrite_stores :
    ok (exec (.regWrite 0x018 0xF 0x33) State.reset) (fun t => t.readReg .ctrl == 0x32) = true
    ∧ ok (exec (.regWrite 0x03C 0xF 0x7F800000) State.reset) (fun t => t.dbFloor == 0xC2400000) = true
    ∧ ok (exec (.regWrite 0x03C 0xF 0xC2C00000) State.reset) (fun t => t.dbFloor == 0xC2C00000) = true
    ∧ ok (exec (.regWrite 0x100 0xF 0x7FC00000) State.reset) (fun t => t.shCoef[0].b0 == 0x7FC00000 && t.pchg) = true
    ∧ ok (exec (.regWrite 0x010 0xF 5) { State.reset with irqStatus := 0x0D }) (fun t => t.irqStatus == 0x08) = true
    ∧ ok (exec (.regWrite 0x010 0xF 0xFFFFFFC0) { State.reset with irqStatus := 0x08 })
        (fun t => t.irqStatus == 0x08) = true
    ∧ ok (exec (.regWrite 0x150 0xF 0x3F000000) (running 0 4))
        (fun t => t.shCoef[4].b0 == 0x3F000000 && t.actCoef[4] == Coefs.unity) = true := by
  decide +kernel

/-- B8, B9, B10, B11, B17, B20, B23. -/
theorem test_regWrite_errors :
    ok (exec (.regWrite 0x081 0xF 0) State.reset) (fun t => t.lastErr == .align) = true
    ∧ ok (exec (.regWrite 0x000 0xF 0) State.reset) (fun t => t.lastErr == .ro) = true
    ∧ ok (exec (.regWrite 0x200 0xF 0) State.reset) (fun t => t.lastErr == .ro) = true
    ∧ ok (exec (.regWrite 0x018 0b0011 0x33) State.reset) (fun t => t.lastErr == .align && t.inCh == 2) = true
    ∧ ok (exec (.regWrite 0x01C 0xF 1) State.reset) (fun t => t.lastErr == .ro) = true
    ∧ ok (exec (.regWrite 0x10000 0xF 0) (running 0 4)) (fun t => t.lastErr == .busy && t.buf == Ram.unwritten) = true
    ∧ ok (exec (.regWrite 0x20000 0xF 0) (running 0 4)) (fun t => t.lastErr == .ro) = true := by
  decide +kernel

/-! ### Commands (95_test_vectors 2.3) -/

/-- C1, C2. -/
theorem test_prepare_sizes :
    ok (exec .prepare State.reset) (fun t => t.actFftSize == 2048 && t.actFrameSize == 512 && t.actBlkMax == 512
      && t.statusWord == 4) = true
    ∧ ok (exec .prepare { State.reset with fftSel := 2, frameSize := 8192, blkMax := 8192 }) (fun t =>
        t.actFftSize == 8192 && t.actFrameSize == 8192 && t.actBlkMax == 8192) = true := by
  decide +kernel

/-- C3, C4, C5, C6, C7. -/
theorem test_prepare_errors :
    [{ State.reset with fftSel := 3 }, { State.reset with frameSize := 4096 }, { State.reset with blkMax := 0 },
      { State.reset with frameSize := 0 }].all (fun s =>
        ok (exec .prepare s) (fun t => t.lastErr == .badConfig && !t.prepared)) = true
    ∧ ok (exec .prepare (running 0 4)) (fun t => t.lastErr == .engineBusy) = true := by
  decide +kernel

/-- C8, C9, C10. -/
theorem test_release :
    ok (exec .release (ticking (.pull .L 30))) (fun t => t.lastErr == .engineBusy && t.prepared) = true
    ∧ ok (exec .release prep) (fun t => !t.prepared && t.actFftSize == 2048) = true
    ∧ ok (exec .release State.reset) (fun t => t.lastErr == .none && t.resp == .write false) = true := by
  decide +kernel

/-- C11, C12, C13, E5. -/
theorem test_process_errors :
    ok (exec (.process 9000) State.reset) (fun t => t.lastErr == .notPrepared) = true
    ∧ ok (exec (.process 513) prep) (fun t => t.lastErr == .length) = true
    ∧ ok (exec (.process 4) (running 0 4)) (fun t => t.lastErr == .engineBusy) = true := by
  decide +kernel

/-- K2, K3, K6 of 2.6, and C14. -/
theorem test_process_commits :
    ok (exec (.process 0) { prep with shCoef := prep.shCoef.set 5 ⟨one32, 0, 0x7F800000, 0, 0⟩ }) (fun t =>
      t.actCoef[5] == Coefs.unity && t.irqStatus == 0x20 && t.astate == .run 0 0) = true
    ∧ ok (exec (.process 0) { prep with shCoef := prep.shCoef.set 0 ⟨one32, 0, 0, 0, 0xFFC00000⟩, bypass := 2 })
        (fun t => t.actCoef[0] == Coefs.unity && t.irqStatus == 0x20) = true
    ∧ ok (exec (.process 0) { prep with bypass := 0x08, lcCfg := ⟨3, 0⟩ }) (fun t =>
        t.actBypassWord == 0xE008 && t.irqStatus == 0) = true := by
  decide +kernel

/-- V-SLOPE and C22. -/
theorem test_setSlope :
    [0#2, 1#2, 2#2, 3#2].map (fun k =>
      match exec (.setSlope .low k) State.reset with
      | .next t => t.readReg .lcCfg
      | .fault _ => 0
      | .refused _ => 0) = [0xE0, 0xC1, 0x82, 0x03] := by
  decide +kernel

/-- C15, C16, C17. -/
theorem test_tick :
    ok (exec .tick State.reset) (fun t => t.lastErr == .notPrepared) = true
    ∧ ok (exec .tick { prep with anEn := false }) (fun t => t.lastErr == .none && !t.tickReq) = true
    ∧ ok (exec .tick { prep with tickReq := true }) (fun t => t.tickReq) = true := by
  decide +kernel

/-- C18. -/
theorem test_clrErr :
    ok (exec .clrErr { State.reset with lastErr := .badConfig, irqStatus := 0x04 }) (fun t =>
      t.lastErr == .none && t.irqStatus == 0x04) = true := by decide +kernel

/-- C19, C20. -/
theorem test_setByp :
    ok (exec (.setByp 3 true) State.reset) (fun t => t.bypass == 0x08 && t.pchg && t.actByp == 0) = true
    ∧ ok (exec (.setByp 3 false) { State.reset with bypass := 0x08 }) (fun t => t.bypass == 0) = true := by
  decide +kernel

/-- C21. -/
theorem test_setSubByp :
    ok (exec (.setSubByp .high 3 false) State.reset) (fun t => t.readReg .hcCfg == 0x60) = true := by decide +kernel

/-- NOP leaves LAST_ERR and the event bits (R133). -/
theorem test_nop :
    ok (exec .nop { State.reset with lastErr := .addr, irqStatus := 0x08 }) (fun t =>
      t.lastErr == .addr && t.irqStatus == 0x08 && t.resp == .write false) = true := by decide +kernel

/-! ### Arithmetic (95_test_vectors 2.4), with FTZ given -/

/-- The biquad of R203 at a given FTZ. -/
def biquadAt (ftz : Bool) (k : Coefs) (st : BiquadState) (x : Word) : Word × Word × Word :=
  let y := Binary32.add ftz (Binary32.mul ftz k.b0 x) st.s1
  (y, Binary32.add ftz (Binary32.sub ftz (Binary32.mul ftz k.b1 x) (Binary32.mul ftz k.a1 y)) st.s2,
    Binary32.sub ftz (Binary32.mul ftz k.b2 x) (Binary32.mul ftz k.a2 y))

/-- The set P of 2.4. -/
def setP : Coefs := ⟨0x3F000000, 0x3E800000, 0x3E000000, 0xBF000000, 0x3E800000⟩

theorem test_biquadAt_is_the_model (k : Coefs) (st : BiquadState) (x : Word) :
    biquadAt Config.ftz k st x
      = ((biquadStep k st x).2, (biquadStep k st x).1.s1, (biquadStep k st x).1.s2) := rfl

/-- Q1–Q4. -/
theorem test_biquad_impulse :
    biquadAt false setP ⟨0, 0⟩ 0x3F800000 = (0x3F000000, 0x3F000000, 0x00000000)
    ∧ biquadAt false setP ⟨0x3F000000, 0⟩ 0 = (0x3F000000, 0x3E800000, 0xBE000000)
    ∧ biquadAt false setP ⟨0x3E800000, 0xBE000000⟩ 0 = (0x3E800000, 0x00000000, 0xBD800000)
    ∧ biquadAt true setP ⟨0, 0xBD800000⟩ 0 = (0x00000000, 0xBD800000, 0x00000000) := by decide +kernel

/-- Q5–Q9. -/
theorem test_biquad_unity :
    biquadAt false Coefs.unity ⟨0, 0⟩ 0x80000000 = (0x00000000, 0x00000000, 0x80000000)
    ∧ biquadAt false Coefs.unity ⟨0, 0⟩ 0x7F800000 = (0x7F800000, 0x7FC00000, 0x7FC00000)
    ∧ biquadAt false Coefs.unity ⟨0, 0⟩ 0x7FC00001 = (0x7FC00000, 0x7FC00000, 0x7FC00000)
    ∧ biquadAt false Coefs.unity ⟨0x3F400000, 0xBF000000⟩ 0x3F800000 = (0x3FE00000, 0xBF000000, 0x00000000)
    ∧ biquadAt false Coefs.unity ⟨0xBF000000, 0⟩ 0x40000000 = (0x3FC00000, 0x00000000, 0x00000000) := by decide +kernel

/-- Q10, Q11. -/
theorem test_biquad_subnormal :
    biquadAt false setP ⟨0, 0⟩ 0x00200000 = (0x00100000, 0x00100000, 0x00000000)
    ∧ biquadAt true setP ⟨0, 0⟩ 0x00200000 = (0x00000000, 0x00000000, 0x00000000) := by decide +kernel

/-- Y1, Y3–Y7 of 2.5: the biquads that run. -/
theorem test_effective_bypass :
    [(0x00#6, 0b1110#4, 0b1110#4), (0x02#6, 0b0000#4, 0b1110#4), (0x3A#6, 0#4, 0#4), (0x36#6, 0#4, 0#4),
      (0x3C#6, 0#4, 0#4), (0x1C#6, 0b1111#4, 0b0101#4)].map
      (fun r => biquadOrder.filter (fun b => !bypassed r.1 r.2.1 r.2.2 b))
      = [[0, 4, 5, 6, 7], [4, 5, 6, 7], [4], [5], [0, 1, 2, 3], [8, 10]] := by decide +kernel

/-! ### FIFO, render engine, timer (95_test_vectors 2.7–2.10) -/

/-- A channel whose next sample completes a frame. -/
def teeState (frame : Word) (sidx : BitVec 14) (x : Channel) : State :=
  { prep with actFrameSize := frame, chL := { x with sidx := sidx } }

/-- P1, P2. -/
theorem test_tee_stages_and_pushes :
    (fifoTee (teeState 4 2 (fifo 0 0 0 0)) .L 7).chL.sidx = 3
    ∧ (fifoTee (teeState 4 3 (fifo 0 0 0 0)) .L 7).chL.sidx = 0
    ∧ (fifoTee (teeState 4 3 (fifo 0 0 0 0)) .L 7).chL.wptr = 1 := by decide +kernel

/-- P3–P8: the WPTR and DROP_CNT that each push leaves. -/
theorem test_push_occupancy :
    [fifo 30 0 0 0, fifo 45 15 15 15, fifo 5 40 40 40, fifo 59 35 35 35, fifo 29 59 59 59,
      { fifo 30 0 0 0 with dropCnt := 0xFFFF }].map (fun x =>
        let t := fifoTee (teeState 1 0 x) .L 7
        (t.chL.wptr, t.chL.dropCnt, t.irqStatus))
      = [(30, 1, 0x10), (45, 1, 0x10), (6, 0, 0), (0, 0, 0), (29, 1, 0x10), (30, 0, 0x10)] := by decide +kernel

/-- P5, P6: the slot an accepted frame lands in. -/
theorem test_push_slot :
    (fifoTee (teeState 1 0 (fifo 5 40 40 40)) .L 7).slotWord .L 5 0 = 7
    ∧ (fifoTee (teeState 1 0 (fifo 59 35 35 35)) .L 7).slotWord .L 29 0 = 7 := by decide +kernel

/-- G4, G5, G6. -/
theorem test_gray :
    [0, 1, 29, 30, 59].map grayCode = [0x03, 0x02, 0x10, 0x30, 0x23]
    ∧ [0x30#6, 0x23#6, 0x03#6].map grayDecode = [some 30, some 59, some 0]
    ∧ grayCode 59 ^^^ grayCode 0 = 0x20 := by decide +kernel

/-- G7, G8, G9: the values a synchroniser may deliver. -/
theorem test_synchroniser_choices :
    (List.finRange 60).filter (viewMayBe 3 6) = [4, 5, 6]
    ∧ (List.finRange 60).filter (viewMayBe 59 1) = [0, 1]
    ∧ (List.finRange 60).filter (viewMayBe 6 6) = [] := by decide +kernel

/-- R1, R2, R5, R6. -/
theorem test_render_sequencing :
    (renderTurn { prep with tickReq := true }).rstate = .pull .L 30
    ∧ (renderTurn { prep with tickReq := true, anEn := false }).tickReq = true
    ∧ (renderTurn (ticking (.pull .L 0))).rstate = .pull .R 30
    ∧ (renderTurn (ticking (.pull .R 30))).rstate = .idle := by decide +kernel

/-- R_PULL on frames of one word and a rolling buffer of four: shift left by F, frame at the end (R272). -/
theorem test_pull_slides :
    let s : State := { ticking (.pull .L 30) with
      actFftSize := 4, actFrameSize := 1
      chL := { fifo 1 0 1 0 with slot := ⟨none, [(0, 9)]⟩, roll := ⟨some 0, [(0, 5), (1, 6), (2, 7), (3, 8)]⟩ } }
    (renderTurn s).chL.roll = ⟨some 0, [(0, 6), (1, 7), (2, 8), (3, 9)]⟩ ∧ (renderTurn s).rstate = .fft .L 29
      ∧ (renderTurn s).chL.rptr = 1 := by decide +kernel

/-- T1, T2, T3. -/
theorem test_timer :
    (timerTurn { prep with tickPeriod := 3, tcnt := 1 }).tcnt = 2
    ∧ (timerTurn { prep with tickPeriod := 3, tcnt := 2 }).tickReq = true
    ∧ (timerTurn { State.reset with tickPeriod := 3, tcnt := 2 }).tickReq = false
    ∧ (timerTurn { prep with tcnt := 5 }).tcnt = 5 := by decide +kernel

/-- T5, T6, T7: the interrupt line. -/
theorem test_irq_line :
    (audioTurn { running 2 2 with irqEnable := 1 }).statusWord.getLsbD 16 = true
    ∧ (State.writeReg { prep with irqEnable := 1, irqStatus := 1 } .irqStatus 1).irqLine = false
    ∧ State.irqLine { prep with irqStatus := 0x3F } = false := by decide +kernel

/-! ### Witnesses: a concrete state and operands that meet each statement's hypotheses -/

theorem witness_DecodeEncodeRoundTrip : (Instr.setByp 5 true).wellFormed = true := rfl

theorem witness_DecodedCommandHasOneWord : decodeCommand 0x70000015 = .ok (.setByp 5 true) := rfl

theorem witness_CommandWordExecution_no_row :
    ∀ row ∈ [(0x00000000#32, 0xFFFFFFFF#32), (0x10000000#32, 0xFFFFFFFF#32), (0x20000000#32, 0xFFFFFFFF#32),
             (0x30000000#32, 0xFFFFC000#32), (0x40000000#32, 0xFFFFFEFC#32), (0x50000000#32, 0xFFFFFFFF#32),
             (0x60000000#32, 0xFFFFFFFF#32), (0x70000000#32, 0xFFFFFFE0#32), (0x80000000#32, 0xFFFFFEEC#32)],
      0x90000000#32 &&& row.2 ≠ row.1 := by
  simp

theorem witness_CommandWordExecution_stage_6 :
    0x70000006#32 &&& 0xFFFFFFE0#32 = 0x70000000#32 ∧ 5 < ((0x70000006#32).extractLsb' 0 4).toNat := by decide

theorem witness_CommandWordExecution_word :
    (Instr.process 9000).wellFormed = true ∧ commandWord (.process 9000) = some 0x30002328 := by decide

theorem witness_StepRunsPresentedOperation :
    (fed [.bus (.cmd 0x30000004)]).inputs = .bus (.cmd 0x30000004) :: []
      ∧ decode (.cmd 0x30000004) = .ok (.process 4) := ⟨rfl, rfl⟩

theorem witness_StepRunsPresentedOperation_rejected :
    (fed [.bus (.cmd 0x90000000)]).inputs = .bus (.cmd 0x90000000) :: []
      ∧ decodeCommand 0x90000000 = .error .reservedOpcode := ⟨rfl, rfl⟩

theorem witness_ResetValues : (fed [.reset]).inputs = .reset :: [] := rfl

theorem witness_PrepareInitialises :
    State.reset.astate = .idle ∧ State.reset.rstate = .idle ∧ State.reset.fftSel ≠ 3
      ∧ 0 < State.reset.frameSize.toNat ∧ State.reset.frameSize.toNat ≤ 2048 * 2 ^ State.reset.fftSel.toNat
      ∧ 0 < State.reset.blkMax.toNat ∧ State.reset.blkMax.toNat ≤ 8192 := by decide

theorem witness_PrepareInitialises_limit :
    let s := { State.reset with fftSel := 2, frameSize := 8192, blkMax := 8192 }
    s.astate = .idle ∧ s.rstate = .idle ∧ s.fftSel ≠ 3 ∧ 0 < s.frameSize.toNat
      ∧ s.frameSize.toNat ≤ 2048 * 2 ^ s.fftSel.toNat ∧ 0 < s.blkMax.toNat ∧ s.blkMax.toNat ≤ 8192 := by decide

theorem witness_PrepareErrors_busy : (running 0 0).astate ≠ .idle ∧ (ticking (.pull .R 0)).rstate ≠ .idle := by decide

theorem witness_PrepareErrors_config :
    prep.astate = .idle ∧ prep.rstate = .idle
      ∧ ({ prep with fftSel := 3 } : State).fftSel = 3 ∧ ({ prep with frameSize := 0 } : State).frameSize = 0
      ∧ 2048 * 2 ^ prep.fftSel.toNat < ({ prep with frameSize := 2049 } : State).frameSize.toNat
      ∧ ({ prep with blkMax := 0 } : State).blkMax = 0
      ∧ 8192 < ({ prep with blkMax := 8193 } : State).blkMax.toNat := by decide

theorem witness_ReleaseClearsPrepared :
    prep.astate = .idle ∧ prep.rstate = .idle ∧ (running 0 1).astate ≠ .idle
      ∧ (ticking (.fft .L 0)).rstate ≠ .idle := by decide

theorem witness_ProcessCommitsAndStarts :
    prep.prepared = true ∧ prep.astate = .idle ∧ (512#14).toNat ≤ prep.actBlkMax.toNat
      ∧ (0#14).toNat ≤ prep.actBlkMax.toNat := by decide

theorem witness_ProcessErrorsInOrder :
    State.reset.prepared = false ∧ (running 0 1).prepared = true ∧ (running 0 1).astate ≠ .idle
      ∧ prep.prepared = true ∧ prep.astate = .idle ∧ prep.actBlkMax.toNat < (513#14).toNat := by decide

theorem witness_TickRequestsOnce :
    prep.prepared = true ∧ prep.anEn = true
      ∧ ({ prep with anEn := false } : State).prepared = true ∧ ({ prep with anEn := false } : State).anEn = false
      ∧ State.reset.prepared = false := by decide

theorem witness_BypassCommandsWriteOneBit : (5#4).toNat ≤ 5 ∧ 5 < (6#4).toNat := by decide

theorem witness_AddressMap :
    8191 < 8192 ∧ 4095 < 4096
      ∧ [0x78#20, 0xFF#20, 0x1DC#20, 0x1FF#20, 0x2DC#20, 0x2FF#20, 0x3B0#20, 0xFFFF#20, 0x28000#20, 0xFFFFF#20].all
          (fun a => decide (
            (0x78 ≤ a.toNat ∧ a.toNat ≤ 0xFF) ∨ (0x1DC ≤ a.toNat ∧ a.toNat ≤ 0x1FF)
              ∨ (0x2DC ≤ a.toNat ∧ a.toNat ≤ 0x2FF) ∨ (0x3B0 ≤ a.toNat ∧ a.toNat ≤ 0xFFFF)
              ∨ (0x28000 ≤ a.toNat))) = true := by decide

theorem witness_ReadErrorsInOrder_align_addr :
    (0x80001#20).toNat % 4 ≠ 0 ∧ (0x78#20).toNat % 4 = 0 ∧ region 0x78#20 = .unmapped := by decide

theorem witness_ReadErrorsInOrder_busy :
    (running 0 1).astate ≠ .idle
      ∧ [0x300#20, 0x3AC#20, 0x10000#20, 0x1FFFC#20].all (fun a => decide (a.toNat % 4 = 0
          ∧ ((0x300 ≤ a.toNat ∧ a.toNat < 0x3B0) ∨ (0x10000 ≤ a.toNat ∧ a.toNat < 0x20000)))) = true := by decide

theorem witness_ReadReturnsLocation_words :
    (CtrlReg.specSeq .R, (0 : Word)) ∈ [(CtrlReg.specSeq .L, (0 : Word)), (.specSeq .R, 0)]
      ∧ (Chan.R, 0x18000) ∈ [(Chan.L, 0x10000), (.R, 0x18000)] ∧ 8191 < 8192 ∧ 0 < 8192 ∧ 4095 < 4096 := by decide

theorem witness_ReadReturnsLocation :
    (0x1C#20).toNat % 4 = 0 ∧ region 0x1C#20 ≠ .unmapped ∧ (0x1FFFC#20).toNat % 4 = 0
      ∧ region 0x1FFFC#20 ≠ .unmapped ∧ State.reset.astate = .idle ∧ 0x1FFFC#20 ≠ 0x1C#20 := by decide

theorem witness_StatusShowsFlags_codes :
    (ErrCode.busy, 9#4) ∈ [(ErrCode.none, 0#4), (.busy, 9)] ∧ State.reset.lastErr = .none
      ∧ ({ prep with lastErr := .busy } : State).lastErr = .busy := by decide

theorem witness_StatusShowsFlags :
    ∃ e < 6, ({ prep with irqStatus := 0x20, irqEnable := 0x20 } : State).irqStatus.getLsbD e = true
      ∧ ({ prep with irqStatus := 0x20, irqEnable := 0x20 } : State).irqEnable.getLsbD e = true :=
  ⟨5, by decide, by decide, by decide⟩

theorem witness_WriteErrorsInOrder_align_addr :
    (0x01E#20).toNat % 4 ≠ 0 ∧ 0b0111#4 ≠ 0xF#4 ∧ (0xFFFC#20).toNat % 4 = 0 ∧ region 0xFFFC#20 = .unmapped := by
  decide

theorem witness_WriteErrorsInOrder_ro_busy :
    [0x000#20, 0x01C#20, 0x044#20, 0x074#20, 0x200#20, 0x2D8#20, 0x300#20, 0x3AC#20, 0x20000#20, 0x27FFC#20].all
        (fun a => decide (a.toNat % 4 = 0 ∧
          (a.toNat ∈ [0x000, 0x004, 0x00C, 0x01C] ∨ (0x044 ≤ a.toNat ∧ a.toNat < 0x078)
            ∨ (0x200 ≤ a.toNat ∧ a.toNat < 0x2DC) ∨ (0x300 ≤ a.toNat ∧ a.toNat < 0x3B0)
            ∨ (0x20000 ≤ a.toNat ∧ a.toNat < 0x28000)))) = true
      ∧ (0x10000 ≤ (0x1FFFC#20).toNat ∧ (0x1FFFC#20).toNat < 0x20000) ∧ (running 0 1).astate ≠ .idle := by decide

theorem witness_WriteBlockBuffer : 8191 < 8192 ∧ prep.astate = .idle := by decide

theorem witness_RoundingIsNearest : 0 < 3 ∧ Binary32.isFinite 0x7F7FFFFF#32 = true := by decide

theorem witness_ArithmeticRoundsExactResult :
    Binary32.isFinite 0x00000001#32 = true ∧ Binary32.isFinite 0x7F7FFFFF#32 = true
      ∧ Binary32.valueRead 0x3F800000#32 + Binary32.valueRead 0x3F800000#32 ≠ 0
      ∧ Binary32.valueRead 0x3F800000#32 - Binary32.valueRead 0x3F800000#32 = 0
      ∧ Binary32.valueRead 0x3F800000#32 - Binary32.valueRead 0xBF800000#32 ≠ 0
      ∧ Binary32.valueRead 0x3F800000#32 + Binary32.valueRead 0xBF800000#32 = 0
      ∧ Binary32.valueRead 0x3F800000#32 ≠ 0 ∧ Binary32.valueRead 0x80000000#32 = 0 := by
  have one : Binary32.valueRead 0x3F800000#32 = 2 ^ 149 := by
    rw [Binary32.valueRead, show Binary32.sign 0x3F800000#32 = false by decide,
      show Binary32.isSubnormal 0x3F800000#32 = false by decide,
      show Binary32.units 0x3F800000#32 = 2 ^ 149 by decide +kernel]
    norm_num
  have minusOne : Binary32.valueRead 0xBF800000#32 = -2 ^ 149 := by
    rw [Binary32.valueRead, show Binary32.sign 0xBF800000#32 = true by decide,
      show Binary32.isSubnormal 0xBF800000#32 = false by decide,
      show Binary32.units 0xBF800000#32 = 2 ^ 149 by decide +kernel]
    norm_num
  have zero : Binary32.valueRead 0x80000000#32 = 0 := by
    rw [Binary32.valueRead, show Binary32.units 0x80000000#32 = 0 by decide]
    simp
  rw [one, minusOne, zero]
  exact ⟨by decide, by decide, by norm_num, by norm_num, by norm_num, by norm_num, by norm_num, rfl⟩

theorem witness_PackedWordIsExact :
    0 < 1 ∧ Binary32.roundToGrid 3 1 = 3
      ∧ Binary32.roundToGrid (2 ^ 254 * 2 ^ 23 - 1) 1 = 2 ^ 254 * 2 ^ 23 := by decide +kernel

theorem witness_SpecialValues :
    Binary32.isNaN 0x7FC00001#32 = true ∧ Binary32.isZero 0x80000000#32 = true ∧ Binary32.isInf 0xFF800000#32 = true
      ∧ Binary32.isFinite 0x00000001#32 = true ∧ Binary32.isFinite 0xBF800000#32 = true
      ∧ Binary32.isInf 0x7F800000#32 = true := by decide

theorem witness_ChainRunsRecurrence :
    State.reset.effBypass 1 = true ∧ State.reset.effBypass 0 = false := by decide

theorem witness_BypassedStateHeld :
    State.reset.effBypass 10 = true ∧ ({ prep with actByp := 0x01 } : State).actByp.getLsbD 0 = true := by decide

theorem witness_ChannelsAgree : State.reset.chL.biquads = prep.chR.biquads ∧ State.reset.actCoef = prep.actCoef
    ∧ State.reset.actByp = prep.actByp ∧ State.reset.actLcSub = prep.actLcSub
    ∧ State.reset.actHcSub = prep.actHcSub := by decide

theorem witness_NanStateStays : (⟨0x7FC00000, 0x3F800000⟩ : BiquadState).s1 = 0x7FC00000#32 := rfl

theorem witness_AudioSampleStep :
    ({ running 511 512 with inputs := [.turn .audio] } : State).inputs = .turn .audio :: []
      ∧ (running 511 512).astate = .run 511 512 ∧ 511 < 512 := ⟨rfl, rfl, by decide⟩

theorem witness_AudioDoneStep :
    ({ running 0 0 with inputs := [.turn .audio] } : State).inputs = .turn .audio :: []
      ∧ (running 0 0).astate = .run 0 0 := ⟨rfl, rfl⟩

theorem witness_BlockTakesBoundedTurns :
    let between : List Input := [.turn .audio, .turn .render, .bus (.cmd 0), .turn .audio]
    (running 0 2).astate = .run 0 2
      ∧ ({ running 0 2 with inputs := between ++ [.turn .audio, .reset] } : State).inputs
          = between ++ [.turn .audio, .reset]
      ∧ .reset ∉ between ∧ between.count (.turn .audio) ≤ 3 ∧ between.count (.turn .audio) = 2 := by decide

theorem witness_ActiveSetConstantDuringBlock :
    ∃ t, step { running 0 1 with inputs := [.bus (.cmd 0x30000001)] } = .next t ∧ (running 0 1).astate ≠ .idle
      ∧ ∀ rest, ({ running 0 1 with inputs := [.bus (.cmd 0x30000001)] } : State).inputs ≠ .reset :: rest :=
  ⟨_, rfl, by decide, fun _ h => by cases h⟩

theorem witness_TeeStagesAndPushes :
    ((teeState 4 2 (fifo 0 0 0 0)).ch .L).sidx.toNat + 1 < (teeState 4 2 (fifo 0 0 0 0)).actFrameSize.toNat
      ∧ ((teeState 8192 8191 (fifo 29 0 0 0)).ch .L).sidx.toNat + 1 = 8192
      ∧ (((teeState 8192 8191 (fifo 29 0 0 0)).ch .L).wptr - ((teeState 8192 8191 (fifo 29 0 0 0)).ch .L).rview).val < 30
      ∧ ¬(((teeState 8192 8191 (fifo 30 0 0 0)).ch .L).wptr
          - ((teeState 8192 8191 (fifo 30 0 0 0)).ch .L).rview).val < 30 := by decide

/-- A prepared block whose FIFO holds a frame the consumer sees, in a tick. -/
def pulling : State :=
  { prep with
    inputs := [.turn .render], rstate := .pull .L 1, chL := fifo 1 0 1 0, irqStatus := 0x10
    buf := ⟨none, [(0x10000, 7)]⟩, tickPeriod := 3, tcnt := 2, pchg := true }

theorem witness_StepKeepsFifosBounded : pulling.FifosBounded ∧ ∃ t, step pulling = .next t :=
  ⟨by unfold State.FifosBounded Channel.occupancyBounded; decide, _, rfl⟩

theorem witness_UnreadSlotsKept :
    pulling.FifosBounded ∧ pulling.actFrameSize.toNat ≤ 8192 ∧ (∃ t, step pulling = .next t)
      ∧ (∀ rest, pulling.inputs ≠ .reset :: rest) ∧ ((0 : Ptr) - (pulling.ch .L).rptr).val < (pulling.ch .L).occ :=
  ⟨by unfold State.FifosBounded Channel.occupancyBounded; decide, by decide, ⟨_, rfl⟩, (fun _ h => by cases h), by decide⟩

theorem witness_SynchronisersMoveForward :
    (fed [.turn (.syncW .L 4)]).inputs = .turn (.syncW .L 4) :: []
      ∧ (fed [.turn (.syncR .R 59)]).inputs = .turn (.syncR .R 59) :: [] := ⟨rfl, rfl⟩

/-- A prepared block at the end of a block and of a tick, with a view behind its pointer on either side. -/
def fairStart : State :=
  { prep with chL := fifo 1 0 0 0, chR := fifo 1 1 1 0, astate := .run 0 0, rstate := .pull .R 0 }

/-- Where it comes to rest: no agent has an enabled step. -/
def fairEnd : State :=
  { prep with chL := fifo 1 0 1 0, chR := fifo 1 1 1 1, blkCnt := 1, irqStatus := 0x01 }

theorem fairEnd_rests (n : Nat) (x : AgentName) : ({ fairEnd with clock := n } : State).agentEnabled x = false := by
  show fairEnd.agentEnabled x = false
  cases x with
  | syncW c => cases c <;> decide
  | syncR c => cases c <;> decide
  | audio => decide
  | render => decide
  | timer => decide

/-- A run in which SYNC_W[L], SYNC_R[R], AUDIO and RENDER take a turn each, and all is at rest from then on. -/
def fairRun : Run where
  state
    | 0 => fairStart
    | 1 => { fairStart with chL := fifo 1 0 1 0 }
    | 2 => { fairStart with chL := fifo 1 0 1 0, chR := fifo 1 1 1 1 }
    | 3 => { fairEnd with rstate := .pull .R 0 }
    | n + 4 => { fairEnd with clock := n }
  input
    | 0 => some (.turn (.syncW .L 1))
    | 1 => some (.turn (.syncR .R 1))
    | 2 => some (.turn .audio)
    | 3 => some (.turn .render)
    | _ + 4 => none
  advances
    | 0 => rfl
    | 1 => rfl
    | 2 => rfl
    | 3 => rfl
    | n + 4 => (step_free rfl).trans (congrArg _ (turn_at_rest (fairEnd_rests (n + 1)) _))

theorem witness_FairRunsProgress : fairRun.WeaklyFair :=
  fun x n h => absurd (h (n + 4) (by omega)) (by simp [fairRun, fairEnd_rests])

theorem witness_FairRunsProgress_clauses :
    (∀ m, 0 ≤ m → ((fairRun.state m).ch .L).wptr = ((fairRun.state 0).ch .L).wptr)
      ∧ (∀ m, 0 ≤ m → ((fairRun.state m).ch .R).rptr = ((fairRun.state 0).ch .R).rptr)
      ∧ ((fairRun.state 0).ch .L).wview ≠ ((fairRun.state 0).ch .L).wptr
      ∧ (fairRun.state 0).astate = .run 0 0 ∧ (fairRun.state 0).rstate ≠ .idle :=
  ⟨fun m _ => match m with | 0 => rfl | 1 => rfl | 2 => rfl | 3 => rfl | _ + 4 => rfl,
    fun m _ => match m with | 0 => rfl | 1 => rfl | 2 => rfl | 3 => rfl | _ + 4 => rfl, by decide, rfl, by decide⟩

theorem reset_rests (n : Nat) (x : AgentName) : ({ State.reset with clock := n } : State).agentEnabled x = false := by
  show State.reset.agentEnabled x = false
  cases x with
  | syncW c => cases c <;> decide
  | syncR c => cases c <;> decide
  | audio => decide
  | render => decide
  | timer => decide

/-- The run from reset that no input reaches. -/
def quietRun : Run where
  state n := { State.reset with clock := n }
  input _ := none
  advances n := (step_free rfl).trans (congrArg _ (turn_at_rest (reset_rests (n + 1)) _))

theorem witness_OwnScheduleIsFair : ∀ n, quietRun.input n = none := fun _ => rfl

theorem witness_TickSequencing :
    (fed [.turn .render]).inputs = .turn .render :: [] ∧ prep.rstate = .idle
      ∧ ({ prep with tickReq := true } : State).tickReq = true ∧ prep.prepared = true ∧ prep.anEn = true
      ∧ ¬(prep.tickReq = true ∧ prep.prepared = true ∧ prep.anEn = true)
      ∧ (ticking (.pull .L 30)).rstate = .pull .L 30 ∧ (ticking (.pull .L 30)).chL.wview = (ticking (.pull .L 30)).chL.rptr
      ∧ (ticking (.pull .R 0)).rstate = .pull .R 0 := by decide

theorem witness_PullSlidesRollingBuffer :
    pulling.inputs = .turn .render :: [] ∧ pulling.rstate = .pull .L 1 ∧ 0 < 1
      ∧ (pulling.ch .L).wview ≠ (pulling.ch .L).rptr
      ∧ pulling.actFrameSize.toNat ≤ pulling.actFftSize.toNat := by decide

theorem witness_FftPublishesSpectrum :
    ({ ticking (.fft .R 0) with inputs := [.turn .render] } : State).inputs = .turn .render :: []
      ∧ (ticking (.fft .R 0)).rstate = .fft .R 0 := ⟨rfl, rfl⟩

theorem witness_SilenceShowsFloor :
    prep.actFftSize = 2048 ∧ ∀ i < prep.actFftSize.toNat, prep.rollWord .L i = 0 := ⟨by decide, fun _ _ => rfl⟩

theorem witness_PublishedBinsBounded :
    Binary32.isFinite 0xC2400000#32 = true ∧ Binary32.isFinite 0x7F7FFFFF#32 = true
      ∧ Binary32.isFinite 0x7F800000#32 = false ∧ Binary32.lt 0#32 0x3F800000#32 = true
      ∧ Binary32.lt 0#32 0x7FC00000#32 = false
      ∧ Binary32.lt (db20 0x3F800000#32) 0xC2400000#32 = false
      ∧ Binary32.lt (db20 0x3F800000#32) 0x3F800000#32 = true := by
  rw [show db20 0x3F800000#32 = 0#32 by decide +kernel]
  decide

theorem witness_OpenFunctionProperties :
    (∀ x ∈ [0x00000000#32, 0x80000000#32], x = 0x00000000#32 ∨ x = 0x80000000#32)
      ∧ Binary32.lt 0#32 0x00000001#32 = true ∧ Binary32.isFinite 0x00000001#32 = true
      ∧ Binary32.isFinite 0x7F7FFFFF#32 = true ∧ Binary32.lt 0x00000001#32 0x3F800000#32 = true
      ∧ Binary32.lt 0x3F800000#32 0x7F7FFFFF#32 = true ∧ Binary32.lt 0x00000001#32 0x7F7FFFFF#32 = true :=
  ⟨by simp, by decide, by decide, by decide, by decide, by decide, by decide⟩

theorem witness_TickEndsInBoundedTurns :
    let between : List Input := .turn .audio :: .bus (.cmd 0) :: List.replicate 122 (.turn .render)
    let s : State := { prep with tickReq := true, inputs := .turn .render :: (between ++ [.reset]) }
    s.rstate = .idle ∧ s.tickReq = true ∧ s.prepared = true ∧ s.anEn = true
      ∧ s.inputs = .turn .render :: (between ++ [.reset]) ∧ .reset ∉ between
      ∧ between.count (.turn .render) = 122 := ⟨rfl, rfl, rfl, rfl, rfl, by decide +kernel, by decide +kernel⟩

theorem witness_TimerFires :
    (fed [.turn .timer]).inputs = .turn .timer :: [] ∧ prep.tickPeriod = 0
      ∧ ((1 : Word) + 1).toNat < (3 : Word).toNat ∧ (3 : Word).toNat ≤ ((2 : Word) + 1).toNat
      ∧ (3 : Word) ≠ 0 := by decide

theorem witness_EnginesIsolated :
    (∃ t, step pulling = .next t ∧ pulling.inputs = .turn .render :: [] ∧ Agent.render ≠ .audio)
      ∧ (∃ t, step { pulling with inputs := [.turn .timer] } = .next t)
      ∧ ∃ t, step { running 0 0 with inputs := [.turn .audio] } = .next t :=
  ⟨⟨_, rfl, rfl, by decide⟩, ⟨_, rfl⟩, _, rfl⟩

theorem witness_StepKeepsMemoryCanonical : pulling.MemoryCanonical ∧ ∃ t, step pulling = .next t :=
  ⟨by unfold State.MemoryCanonical Channel.ramsWf; decide, _, rfl⟩

theorem witness_StepKeepsRegistersLegal : pulling.RegistersLegal ∧ ∃ t, step pulling = .next t :=
  ⟨by unfold State.RegistersLegal; decide, _, rfl⟩

theorem witness_StepKeepsControlLegal : pulling.ControlLegal ∧ ∃ t, step pulling = .next t := by
  refine ⟨⟨⟨trivial, show (1 : Nat) ≤ Config.pullsPerTick by decide⟩, fun h => absurd h (by decide), fun _ => ?_⟩, _, rfl⟩
  unfold State.ActiveConfigLegal
  decide

/-- A write of BYPASS with the value it holds, the words of SET_SUBBYP and of SET_BYP at its highest stage, and a write of
the last shadow coefficient are parameter writes; a write past the bank is none. -/
theorem witness_ParameterChangeIsFlagged_writes :
    WritesParameter (.regWrite 0x030 0xF 0) ∧ WritesParameter (.regWrite 0x1D8 0xF 0)
      ∧ WritesParameter (.setSubByp .high 3 false) ∧ WritesParameter (.regWrite 0x008 0xF 0x70000015)
      ∧ ¬WritesParameter (.regWrite 0x1DC 0xF 0) ∧ ¬WritesParameter (.setByp 6 true) :=
  ⟨.inr ⟨_, _, _, rfl, rfl, .inl rfl⟩, .inr ⟨_, _, _, rfl, rfl, .inr (.inr (.inr (.inl (by decide))))⟩, .inl rfl,
    .inr ⟨_, _, _, rfl, rfl, .inr (.inr (.inr (.inr ⟨rfl, .setByp 5 true, rfl, rfl⟩)))⟩,
    (by rintro (h | ⟨_, _, _, h, _, h'⟩)
        · cases h
        · cases h
          revert h'
          simp),
    (by rintro (h | ⟨_, _, _, h, _⟩) <;> cases h)⟩

theorem witness_ParameterChangeIsFlagged_set :
    ∃ t, step (fed [.bus (wr 0x030 0)]) = .next t ∧ decode (wr 0x030 0) = .ok (.regWrite 0x030 0xF 0)
      ∧ (fed [.bus (wr 0x030 0)]).pchg = false ∧ t.pchg = true ∧ t.bypass = prep.bypass := ⟨_, rfl, rfl, rfl, rfl, rfl⟩

theorem witness_ParameterChangeIsFlagged_cleared :
    (∃ t, step { pulling with inputs := [.bus (encode (.regRead 0x01C))] } = .next t ∧ pulling.pchg = true
        ∧ decode (encode (.regRead 0x01C)) = .ok (.regRead 0x01C) ∧ t.pchg = false)
      ∧ ∃ t, step { pulling with inputs := [.reset] } = .next t ∧ t.pchg = false :=
  ⟨⟨_, rfl, rfl, rfl, rfl⟩, _, rfl, rfl⟩

theorem witness_EventBitsSticky :
    (∃ t, step { pulling with inputs := [.reset] } = .next t ∧ pulling.irqStatus.getLsbD 4 = true
        ∧ t.irqStatus.getLsbD 4 = false)
      ∧ ∃ t, step { pulling with inputs := [.bus (wr 0x010 0x10)] } = .next t ∧ t.irqStatus.getLsbD 4 = false :=
  ⟨⟨_, rfl, by decide, rfl⟩, _, rfl, rfl⟩

end Sys2Proof.Tests
end

section
/-! PROOFS. Weakly fair runs (spec 00_scope.md R21; 43_channel_fifo.md R252, R253): what one moment of a run does to a
block, a tick and a view, one lemma that turns fairness into progress, and the statements that follow. -/

namespace Sys2Proof.Machine

/-! ### The agents' own schedule -/

/-- A moment without an input moves the clock on by one. -/
theorem Run.clock_succ {r : Run} {n : Nat} (h : r.input n = none) :
    (r.state (n + 1)).clock = (r.state n).clock + 1 := by
  have hstep := r.advances n
  rw [h, step_free (by rfl)] at hstep
  injection hstep with hstep
  rw [← hstep, turn_clock]

theorem Run.clock_add {r : Run} (h : ∀ n, r.input n = none) (n d : Nat) :
    (r.state (n + d)).clock = (r.state n).clock + d := by
  induction d with
  | zero => rfl
  | succ d ih => rw [← Nat.add_assoc, Run.clock_succ (h _), ih, Nat.add_assoc]

/-- Settles O45: every agent's name comes again in the schedule, and a scheduled turn of an agent that has an enabled
step is enabled. -/
theorem ownScheduleIsFair : Obligations.OwnScheduleIsFair := by
  intro r free x n henabled
  obtain ⟨t, ht, hx⟩ := scheduledName_recurs x (r.state n).clock
  have hclock : (r.state (n + (t - (r.state n).clock))).clock = t := by
    rw [Run.clock_add free]
    omega
  refine ⟨n + (t - (r.state n).clock), by omega,
    (r.state (n + (t - (r.state n).clock))).scheduled, ?_, ?_, ?_⟩
  · simp [Run.turnAt, free]
  · rw [scheduled_name, hclock, hx]
  · apply scheduled_enabled
    rw [hclock, hx]
    exact henabled _ (by omega)

/-! ### From fairness to progress -/

/-- A phase of a run ends if an agent is enabled all through it, no moment inside it raises a measure, and every step
of that agent lowers the measure. -/
theorem Run.WeaklyFair.reaches {r : Run} (fair : r.WeaklyFair) {x : AgentName} {live done : State → Prop}
    {μ : State → Nat} {n : Nat} (enabled : ∀ s, live s → s.agentEnabled x = true)
    (moment : ∀ m, n ≤ m → live (r.state m) → done (r.state (m + 1))
      ∨ (live (r.state (m + 1)) ∧ μ (r.state (m + 1)) ≤ μ (r.state m)
          ∧ (r.stepsAt x m → μ (r.state (m + 1)) < μ (r.state m))))
    (start : live (r.state n)) : ∃ m, n ≤ m ∧ done (r.state m) := by
  by_contra hnever
  have stays : ∀ m, n ≤ m → live (r.state m) → live (r.state (m + 1)) ∧ μ (r.state (m + 1)) ≤ μ (r.state m)
      ∧ (r.stepsAt x m → μ (r.state (m + 1)) < μ (r.state m)) := fun m hm hl =>
    (moment m hm hl).resolve_left fun hd => hnever ⟨m + 1, by omega, hd⟩
  have hlive : ∀ m, n ≤ m → live (r.state m) := fun m hm =>
    Nat.le_induction start (fun k hk ih => (stays k hk ih).1) m hm
  have falls : ∀ k m, n ≤ k → k ≤ m → μ (r.state m) ≤ μ (r.state k) := fun k m hk hm =>
    Nat.le_induction le_rfl (fun j hj ih => (stays j (by omega) (hlive j (by omega))).2.1.trans ih) m hm
  have descent : ∀ b k, n ≤ k → b ≤ μ (r.state k) := by
    intro b
    induction b with
    | zero => exact fun _ _ => Nat.zero_le _
    | succ b ih =>
      intro k hk
      obtain ⟨m, hm, hstep⟩ := fair x k fun m hm => enabled _ (hlive m (by omega))
      calc b + 1 ≤ μ (r.state (m + 1)) + 1 := Nat.succ_le_succ (ih (m + 1) (by omega))
        _ ≤ μ (r.state m) := (stays m (by omega) (hlive m (by omega))).2.2 hstep
        _ ≤ μ (r.state k) := falls k m hk hm
  exact absurd (descent (μ (r.state n) + 1) n le_rfl) (by omega)

/-- An agent that takes a step at a moment is the one whose turn it is. -/
theorem Run.stepsAt_turn {r : Run} {x : AgentName} {n : Nat} {a : Agent} (h : r.stepsAt x n)
    (ha : r.turnAt n = some a) : a.name = x ∧ (r.state n).enabled a = true := by
  obtain ⟨b, hb, hname, henabled⟩ := h
  obtain rfl : b = a := Option.some.inj (hb.symm.trans ha)
  exact ⟨hname, henabled⟩

/-- Where nobody's turn it is, no agent takes a step. -/
theorem Run.not_stepsAt {r : Run} {x : AgentName} {n : Nat} (h : r.turnAt n = none) : ¬r.stepsAt x n := by
  rintro ⟨a, ha, -⟩
  cases h.symm.trans ha

theorem Agent.name_eq_audio {a : Agent} : a.name = .audio ↔ a = .audio := by
  cases a <;> simp [Agent.name]

theorem Agent.name_eq_render {a : Agent} : a.name = .render ↔ a = .render := by
  cases a <;> simp [Agent.name]

/-! ### Blocks -/

/-- AUDIO is inside a block that its turns will end (R222, R223). -/
def State.inBlock (s : State) : Prop := ∃ j n, s.astate = .run j n ∧ j ≤ n

/-- The turns AUDIO still takes before its block ends: one for every sample left and AUDIO_DONE (R226). -/
def State.blockLeft (s : State) : Nat :=
  match s.astate with
  | .idle => 0
  | .run j n => n + 1 - j

theorem State.inBlock_of_run {s : State} {j n : Nat} (h : s.astate = .run j n) (hj : j ≤ n) : s.inBlock :=
  ⟨j, n, h, hj⟩

theorem State.blockLeft_of_run {s : State} {j n : Nat} (h : s.astate = .run j n) : s.blockLeft = n + 1 - j := by
  simp [State.blockLeft, h]

theorem State.inBlock_congr {s t : State} (h : t.astate = s.astate) : t.inBlock ↔ s.inBlock := by
  simp [State.inBlock, h]

theorem State.blockLeft_congr {s t : State} (h : t.astate = s.astate) : t.blockLeft = s.blockLeft := by
  simp [State.blockLeft, h]

theorem State.inBlock.audioEnabled {s : State} (h : s.inBlock) : s.agentEnabled .audio = true := by
  obtain ⟨j, n, hs, hj⟩ := h
  simp [State.agentEnabled, State.audioEnabled, hs, hj]

/-- AUDIO's turn in a block ends it or brings its end nearer. -/
theorem turn_audio_nearer {s : State} (h : s.inBlock) :
    (turn .audio s).astate = .idle ∨ ((turn .audio s).inBlock ∧ (turn .audio s).blockLeft < s.blockLeft) := by
  obtain ⟨j, n, hs, hj⟩ := h
  rcases hj.lt_or_eq with hlt | rfl
  · have hnext := (turn_audio_sample hs hlt).1
    refine .inr ⟨State.inBlock_of_run hnext hlt, ?_⟩
    rw [State.blockLeft_of_run hnext, State.blockLeft_of_run hs]
    omega
  · exact .inl (turn_audio_done hs).1

/-- One moment of a block: it ends, or it goes on and is no farther from its end, and nearer after a step of AUDIO. -/
theorem Run.block_moment (r : Run) (n : Nat) (h : (r.state n).inBlock) :
    (r.state (n + 1)).astate = .idle
      ∨ ((r.state (n + 1)).inBlock ∧ (r.state (n + 1)).blockLeft ≤ (r.state n).blockLeft
          ∧ (r.stepsAt .audio n → (r.state (n + 1)).blockLeft < (r.state n).blockLeft)) := by
  have unmoved (hsame : (r.state (n + 1)).astate = (r.state n).astate) (hno : ¬r.stepsAt .audio n) :
      (r.state (n + 1)).inBlock ∧ (r.state (n + 1)).blockLeft ≤ (r.state n).blockLeft
        ∧ (r.stepsAt .audio n → (r.state (n + 1)).blockLeft < (r.state n).blockLeft) :=
    ⟨(State.inBlock_congr hsame).mpr h, (State.blockLeft_congr hsame).le, fun hs => absurd hs hno⟩
  cases r.moment n with
  | host i x agree seqs hturn eff =>
    have busy : x.astate ≠ .idle := by
      obtain ⟨j, len, hs, -⟩ := h
      simp [seqs.1, hs]
    exact .inr (unmoved (((exec_next eff).astate_of_busy busy).1.trans seqs.1) (Run.not_stepsAt hturn))
  | agent a x agree seqs hturn eff =>
    by_cases ha : a = .audio
    · subst ha
      rw [eff]
      refine (turn_audio_nearer ((State.inBlock_congr seqs.1).mpr h)).imp_right fun ⟨hin, hlt⟩ => ?_
      rw [State.blockLeft_congr seqs.1] at hlt
      exact ⟨hin, hlt.le, fun _ => hlt⟩
    · refine .inr (unmoved ?_ fun hs => ha (Agent.name_eq_audio.mp (Run.stepsAt_turn hs hturn).1))
      rw [eff, (turn_astate_of_other ha x).1, seqs.1]
  | reset x _ eff =>
    left
    rw [eff]
    rfl

/-! ### Ticks -/

theorem renderEnabled_of_tick {s : State} (h : s.rstate ≠ .idle) : s.agentEnabled .render = true := by
  simp only [State.agentEnabled, State.renderEnabled]
  cases hr : s.rstate with
  | idle => exact absurd hr h
  | pull c left => rfl
  | fft c left => rfl

/-- One moment of a tick: it ends, or it goes on and is no farther from its end, and nearer after a step of RENDER. -/
theorem Run.tick_moment (r : Run) (n : Nat) (h : (r.state n).rstate ≠ .idle) :
    (r.state (n + 1)).rstate = .idle
      ∨ ((r.state (n + 1)).rstate ≠ .idle
          ∧ ticksLeft (r.state (n + 1)).rstate ≤ ticksLeft (r.state n).rstate
          ∧ (r.stepsAt .render n → ticksLeft (r.state (n + 1)).rstate < ticksLeft (r.state n).rstate)) := by
  have unmoved (hsame : (r.state (n + 1)).rstate = (r.state n).rstate) (hno : ¬r.stepsAt .render n) :
      (r.state (n + 1)).rstate ≠ .idle
        ∧ ticksLeft (r.state (n + 1)).rstate ≤ ticksLeft (r.state n).rstate
        ∧ (r.stepsAt .render n → ticksLeft (r.state (n + 1)).rstate < ticksLeft (r.state n).rstate) :=
    ⟨hsame ▸ h, (congrArg ticksLeft hsame).le, fun hs => absurd hs hno⟩
  cases r.moment n with
  | host i x agree seqs hturn eff =>
    exact .inr (unmoved ((exec_next eff).rstate_inputs.1.trans seqs.2) (Run.not_stepsAt hturn))
  | agent a x agree seqs hturn eff =>
    by_cases ha : a = .render
    · subst ha
      have hlt := turn_render_nearer (s := x) (seqs.2 ▸ h)
      rw [← eff, seqs.2] at hlt
      exact (Classical.em _).imp_right fun hne => ⟨hne, hlt.le, fun _ => hlt⟩
    · refine .inr (unmoved ?_ fun hs => ha (Agent.name_eq_render.mp (Run.stepsAt_turn hs hturn).1))
      rw [eff, (turn_rstate_of_other ha x).1, seqs.2]
  | reset x _ eff =>
    left
    rw [eff]
    rfl

/-! ### Views -/

/-- A delivery brings the view nearer to its pointer. -/
theorem viewMayBe_nearer {view pointer v : Ptr} (h : viewMayBe view pointer v = true) :
    (pointer - v).val < (pointer - view).val := by
  simp only [viewMayBe, decide_eq_true_eq, Fin.sub_def] at h ⊢
  omega

/-- Nothing is delivered to a view that equals its pointer. -/
theorem not_viewMayBe_self (view v : Ptr) : viewMayBe view view v = false := by
  simp [viewMayBe]
  omega

/-- The agent `x` makes a view of channel `c` follow a pointer (R252, R253): it has a step while they differ, PREPARE and
the reset input start both anew, and any turn leaves the view without being a step of `x`, or delivers an allowed value. -/
structure Follows (x : AgentName) (c : Chan) (view pointer : Channel → Ptr) : Prop where
  enabled : ∀ s : State, view (s.ch c) ≠ pointer (s.ch c) → s.agentEnabled x = true
  prepared : ∀ k : Channel, view k.prepared = pointer k.prepared
  reset : view Channel.reset = pointer Channel.reset
  turned : ∀ (a : Agent) (s : State),
    (view ((turn a s).ch c) = view (s.ch c) ∧ ¬(a.name = x ∧ s.enabled a = true))
      ∨ viewMayBe (view (s.ch c)) (pointer (s.ch c)) (view ((turn a s).ch c)) = true
  enabled_congr : ∀ (a : Agent) (s t : State), a.name = x → s.ch c = t.ch c → s.enabled a = t.enabled a

theorem syncW_follows (c : Chan) : Follows (.syncW c) c Channel.wview Channel.wptr where
  enabled s h := by simpa [State.agentEnabled] using h
  prepared _ := rfl
  reset := rfl
  turned a s := by
    by_cases ha : a.name = .syncW c ∧ s.enabled a = true
    · obtain ⟨hname, hv⟩ := ha
      cases a with
      | syncW d v =>
        obtain rfl : d = c := AgentName.syncW.inj hname
        right
        simp [turn, syncWTurn, show viewMayBe _ _ v = true from hv]
      | _ => cases hname
    · rcases turn_wview a s c with h | ⟨v, -, hv, h⟩
      · exact .inl ⟨h, ha⟩
      · exact .inr (h ▸ hv)
  enabled_congr a s t hname hch := by
    cases a with
    | syncW d v =>
      obtain rfl : d = c := AgentName.syncW.inj hname
      simp only [State.enabled, hch]
    | _ => cases hname

theorem syncR_follows (c : Chan) : Follows (.syncR c) c Channel.rview Channel.rptr where
  enabled s h := by simpa [State.agentEnabled] using h
  prepared _ := rfl
  reset := rfl
  turned a s := by
    by_cases ha : a.name = .syncR c ∧ s.enabled a = true
    · obtain ⟨hname, hv⟩ := ha
      cases a with
      | syncR d v =>
        obtain rfl : d = c := AgentName.syncR.inj hname
        right
        simp [turn, syncRTurn, show viewMayBe _ _ v = true from hv]
      | _ => cases hname
    · rcases turn_rview a s c with h | ⟨v, -, hv, h⟩
      · exact .inl ⟨h, ha⟩
      · exact .inr (h ▸ hv)
  enabled_congr a s t hname hch := by
    cases a with
    | syncR d v =>
      obtain rfl : d = c := AgentName.syncR.inj hname
      simp only [State.enabled, hch]
    | _ => cases hname

section
variable {x : AgentName} {c : Chan} {view pointer : Channel → Ptr}

/-- What one moment of a run may do to a view: view and pointer start anew, the view stays and its agent takes no step,
or an allowed value is delivered. -/
theorem Follows.moment (hf : Follows x c view pointer) (r : Run) (n : Nat) :
    view ((r.state (n + 1)).ch c) = pointer ((r.state (n + 1)).ch c)
      ∨ (view ((r.state (n + 1)).ch c) = view ((r.state n).ch c) ∧ ¬r.stepsAt x n)
      ∨ viewMayBe (view ((r.state n).ch c)) (pointer ((r.state n).ch c)) (view ((r.state (n + 1)).ch c)) = true := by
  cases r.moment n with
  | host i y agree seqs hturn eff =>
    rcases (exec_next eff).channels with h | ⟨-, h⟩
    · exact .inr (.inl ⟨by rw [h, agree], Run.not_stepsAt hturn⟩)
    · exact .inl (by rw [h, hf.prepared])
  | agent a y agree seqs hturn eff =>
    rw [eff, ← agree]
    refine .inr ((hf.turned a y).imp_left fun ⟨hkept, hno⟩ => ⟨hkept, fun hs => hno ?_⟩)
    obtain ⟨hname, henabled⟩ := Run.stepsAt_turn hs hturn
    exact ⟨hname, (hf.enabled_congr a _ _ hname (agree c)).trans henabled⟩
  | reset y _ eff =>
    left
    rw [eff]
    cases c <;> exact hf.reset

/-- A view that equals its pointer goes on equalling it while the pointer stays. -/
theorem Follows.stays (hf : Follows x c view pointer) {r : Run} {n : Nat}
    (still : pointer ((r.state (n + 1)).ch c) = pointer ((r.state n).ch c))
    (h : view ((r.state n).ch c) = pointer ((r.state n).ch c)) :
    view ((r.state (n + 1)).ch c) = pointer ((r.state (n + 1)).ch c) := by
  rcases hf.moment r n with hnew | ⟨hkept, -⟩ | hv
  · exact hnew
  · rw [hkept, h, still]
  · rw [h, not_viewMayBe_self] at hv
    cases hv

/-- In a weakly fair run a view reaches a pointer that no longer changes. -/
theorem Follows.reaches (hf : Follows x c view pointer) {r : Run} (fair : r.WeaklyFair) {n : Nat}
    (still : ∀ m, n ≤ m → pointer ((r.state (m + 1)).ch c) = pointer ((r.state m).ch c)) :
    ∃ k, n ≤ k ∧ view ((r.state k).ch c) = pointer ((r.state k).ch c) := by
  by_cases start : view ((r.state n).ch c) = pointer ((r.state n).ch c)
  · exact ⟨n, le_rfl, start⟩
  refine fair.reaches (live := fun s => view (s.ch c) ≠ pointer (s.ch c))
    (done := fun s => view (s.ch c) = pointer (s.ch c))
    (μ := fun s => (pointer (s.ch c) - view (s.ch c)).val) hf.enabled (fun m hm hlive => ?_) start
  rcases hf.moment r m with hnew | ⟨hkept, hrest⟩ | hv
  · exact .inl hnew
  · simp only [hkept, still m hm]
    exact .inr ⟨hlive, le_rfl, fun hs => absurd hs hrest⟩
  · have hlt := viewMayBe_nearer hv
    simp only [still m hm]
    exact (Classical.em _).imp_right fun hne => ⟨hne, hlt.le, fun _ => hlt⟩

/-- In a weakly fair run a view reaches a pointer that no longer changes, and stays with it (R252, R253). -/
theorem Follows.settles (hf : Follows x c view pointer) {r : Run} (fair : r.WeaklyFair) {n : Nat}
    (still : ∀ m, n ≤ m → pointer ((r.state m).ch c) = pointer ((r.state n).ch c)) :
    ∃ k, n ≤ k ∧ ∀ m, k ≤ m → view ((r.state m).ch c) = pointer ((r.state m).ch c) := by
  have still_succ : ∀ m, n ≤ m → pointer ((r.state (m + 1)).ch c) = pointer ((r.state m).ch c) := fun m hm =>
    (still (m + 1) (by omega)).trans (still m hm).symm
  obtain ⟨k, hk, heq⟩ := hf.reaches fair still_succ
  exact ⟨k, hk, fun m hm => Nat.le_induction heq (fun j hj ih => hf.stays (still_succ j (by omega)) ih) m hm⟩

end

/-- Settles O44: each clause is a phase that the steps of one fair agent end, by the distance of a view from its pointer,
by the samples left in a block, by the turns left in a tick. -/
theorem fairRunsProgress : Obligations.FairRunsProgress := by
  intro r fair
  refine ⟨fun c n still => ?_, fun c n still => ?_, fun n j len hrun hj => ?_, fun n hbusy => ?_⟩
  · exact (syncW_follows c).settles fair still
  · exact (syncR_follows c).settles fair still
  · exact fair.reaches (done := fun s => s.astate = .idle) (fun s h => h.audioEnabled)
      (fun m _ h => r.block_moment m h) (State.inBlock_of_run hrun hj)
  · exact fair.reaches (live := fun s => s.rstate ≠ .idle) (done := fun s => s.rstate = .idle)
      (μ := fun s => ticksLeft s.rstate) (fun s h => renderEnabled_of_tick h) (fun m _ h => r.tick_moment m h) hbusy

end Sys2Proof.Machine
end

section
/-! PROOFS. Rounding to nearest, ties to even (spec 00_scope.md R14; 42_filter_chain.md R200): a nearest multiple of the
spacing of binary32 values at a magnitude is a nearest value of the whole grid. -/

namespace Sys2Proof.Machine.Binary32

/-! ### Multiples of a spacing -/

/-- A distance of at most half a spacing is least among all multiples, and where another multiple is equally near, the
two are neighbours at half a spacing on either side. -/
theorem abs_le_abs_of_half {x g : ℚ} {d : ℤ} (hx : |x| ≤ g / 2) (hg : 0 < g) (hd : d ≠ 0) :
    |x| ≤ |x + d * g| ∧ (|x| = |x + d * g| → |x| = g / 2 ∧ |d| = 1) := by
  have hone : (1 : ℚ) ≤ |(d : ℚ)| := by exact_mod_cast Int.one_le_abs hd
  have hdg : |(d : ℚ)| * g ≤ |x + d * g| + |x| := by
    calc |(d : ℚ)| * g = |(x + d * g) - x| := by rw [add_sub_cancel_left, abs_mul, abs_of_pos hg]
      _ ≤ |x + d * g| + |x| := abs_sub _ _
  have hgd : g ≤ |(d : ℚ)| * g := le_mul_of_one_le_left hg.le hone
  refine ⟨by linarith, fun heq => ⟨by linarith, ?_⟩⟩
  have hle : |(d : ℚ)| ≤ 1 := by
    by_contra hlt
    have := mul_lt_mul_of_pos_right (not_le.mp hlt) hg
    linarith
  exact_mod_cast le_antisymm hle hone

/-- A multiple of a spacing at most half a spacing away, even where it is exactly half, is the nearest multiple, and the
even one of two. -/
theorem nearest_multiple {r g : ℚ} {n : ℕ} (hg : 0 < g) (hn : |r - n * g| ≤ g / 2)
    (heven : |r - n * g| = g / 2 → Even n) {n' : ℕ} (hne : n' ≠ n) :
    |r - n * g| ≤ |r - n' * g| ∧ (|r - n * g| = |r - n' * g| → 2 * ((n : ℤ) - n') ∣ (n : ℤ)) := by
  have hd : (n : ℤ) - n' ≠ 0 := by omega
  have hshift : r - n * g + ((n : ℤ) - n' : ℤ) * g = r - n' * g := by push_cast; ring
  obtain ⟨hle, htie⟩ := abs_le_abs_of_half hn hg hd
  rw [hshift] at hle htie
  refine ⟨hle, fun heq => ?_⟩
  obtain ⟨hhalf, hone⟩ := htie heq
  have htwo : (2 : ℤ) ∣ n := by exact_mod_cast (heven hhalf).two_dvd
  rcases (abs_eq zero_le_one).mp hone with h | h
  · rw [h]
    simpa using htwo
  · rw [h]
    simpa using htwo

/-- `divNearestEven` gives the quotient or the next number, whichever is nearer, the even one at the middle. -/
theorem divNearestEven_cases (num den : ℕ) :
    (divNearestEven num den = num / den ∧ 2 * (num % den) ≤ den
        ∧ (2 * (num % den) = den → Even (divNearestEven num den)))
      ∨ (divNearestEven num den = num / den + 1 ∧ den ≤ 2 * (num % den)
        ∧ (2 * (num % den) = den → Even (divNearestEven num den))) := by
  simp only [divNearestEven, Nat.even_iff]
  split_ifs with hlow hhigh hparity
  · exact .inl ⟨rfl, by omega, by omega⟩
  · exact .inr ⟨rfl, by omega, by omega⟩
  · exact .inl ⟨rfl, by omega, fun _ => hparity⟩
  · exact .inr ⟨rfl, by omega, by omega⟩

/-- A fraction is its quotient and a rest. -/
theorem cast_div_eq_quotient_add (num : ℕ) {den : ℕ} (hden : 0 < den) :
    (num : ℚ) / den = (num / den : ℕ) + ((num % den : ℕ) : ℚ) / den := by
  have hq : (den : ℚ) ≠ 0 := by positivity
  field_simp
  exact_mod_cast (Nat.div_add_mod num den).symm

/-- The whole number that `divNearestEven` gives is at most one half away, and even where it is exactly one half. -/
theorem divNearestEven_spec (num : ℕ) {den : ℕ} (hden : 0 < den) :
    |(num : ℚ) / den - divNearestEven num den| ≤ 1 / 2
      ∧ (|(num : ℚ) / den - divNearestEven num den| = 1 / 2 → Even (divNearestEven num den)) := by
  have hq : (0 : ℚ) < den := by exact_mod_cast hden
  have hρ : ((num % den : ℕ) : ℚ) / den < 1 := by
    rw [div_lt_one hq]
    exact_mod_cast Nat.mod_lt num hden
  rcases divNearestEven_cases num den with ⟨heq, hle, heven⟩ | ⟨heq, hle, heven⟩
  · have habs : |(num : ℚ) / den - divNearestEven num den| = ((num % den : ℕ) : ℚ) / den := by
      rw [heq, cast_div_eq_quotient_add num hden, add_sub_cancel_left, abs_of_nonneg (by positivity)]
    rw [habs]
    constructor
    · rw [div_le_div_iff₀ hq two_pos, one_mul, mul_comm]
      exact_mod_cast hle
    · intro h
      rw [div_eq_div_iff hq.ne' two_ne_zero, one_mul, mul_comm] at h
      exact heven (by exact_mod_cast h)
  · have habs : |(num : ℚ) / den - divNearestEven num den| = 1 - ((num % den : ℕ) : ℚ) / den := by
      rw [heq, cast_div_eq_quotient_add num hden, abs_sub_comm, abs_of_nonneg (by push_cast; linarith)]
      push_cast
      ring
    rw [habs]
    constructor
    · have : (1 : ℚ) / 2 ≤ ((num % den : ℕ) : ℚ) / den := by
        rw [div_le_div_iff₀ two_pos hq, one_mul, mul_comm]
        exact_mod_cast hle
      linarith
    · intro h
      have h : ((num % den : ℕ) : ℚ) / den = 1 / 2 := by linarith
      rw [div_eq_div_iff hq.ne' two_ne_zero, one_mul, mul_comm] at h
      exact heven (by exact_mod_cast h)

/-! ### The grid of binary32 values -/

/-- A magnitude of at most 2^24 spacings is on the grid. -/
theorem onGrid_mul_two_pow {n : ℕ} (hn : n ≤ 2 ^ 24) (E : ℕ) : OnGrid (n * 2 ^ E) := by
  rcases hn.lt_or_eq with hlt | rfl
  · exact ⟨n, E, hlt, rfl⟩
  · exact ⟨1, 24 + E, by norm_num, by rw [one_mul, pow_add]⟩

/-- A value of the grid is a multiple of a given spacing, or lies below the magnitudes that have this spacing. -/
theorem OnGrid.multiple_or_small {k : ℕ} (h : OnGrid k) (E : ℕ) :
    (∃ n, k = n * 2 ^ E) ∨ (0 < E ∧ k < 2 ^ 23 * 2 ^ E) := by
  obtain ⟨m, e, hm, rfl⟩ := h
  rcases Nat.lt_or_ge e E with hlt | hge
  · refine .inr ⟨by omega, ?_⟩
    calc m * 2 ^ e < 2 ^ 24 * 2 ^ e := Nat.mul_lt_mul_of_pos_right hm (by positivity)
      _ = 2 ^ 23 * 2 ^ (e + 1) := by ring
      _ ≤ 2 ^ 23 * 2 ^ E := Nat.mul_le_mul_left _ (Nat.pow_le_pow_right two_pos hlt)
  · exact .inl ⟨m * 2 ^ (e - E), by rw [mul_assoc, ← pow_add, Nat.sub_add_cancel hge]⟩

/-- A binary32 magnitude is on the grid. -/
theorem onGrid_units (w : Word) : OnGrid (units w) := by
  have hfrac : fracField w < 2 ^ 23 := BitVec.isLt _
  unfold units
  split
  · exact ⟨fracField w, 0, by omega, by simp⟩
  · exact ⟨2 ^ 23 + fracField w, expField w - 1, by omega, rfl⟩

/-- The nearest multiple of the spacing at a magnitude, even at the middle, is the nearest value of the whole grid. -/
theorem nearestEven_of_nearest_multiple {r : ℚ} {E n : ℕ} (hlow : 0 < E → 2 ^ 23 * 2 ^ E ≤ r)
    (hhigh : r < 2 ^ 24 * 2 ^ E) (hn : |r - n * 2 ^ E| ≤ 2 ^ E / 2) (heven : |r - n * 2 ^ E| = 2 ^ E / 2 → Even n) :
    NearestEven r (n * 2 ^ E) := by
  have hg : (0 : ℚ) < 2 ^ E := by positivity
  have hn24 : n ≤ 2 ^ 24 := by
    have hlt : (n : ℚ) * 2 ^ E < (2 ^ 24 + 1) * 2 ^ E := by linarith [(abs_le.mp hn).1]
    have hlt := lt_of_mul_lt_mul_right hlt hg.le
    exact Nat.lt_succ_iff.mp (by exact_mod_cast hlt)
  have multiples : ∀ n' : ℕ, n' ≠ n → |r - n * 2 ^ E| ≤ |r - n' * 2 ^ E|
      ∧ (|r - n * 2 ^ E| = |r - n' * 2 ^ E| → 2 * ((n : ℤ) - n') ∣ (n : ℤ)) := fun n' => nearest_multiple hg hn heven
  refine ⟨onGrid_mul_two_pow hn24 E, fun k' hk' => ?_⟩
  rcases hk'.multiple_or_small E with ⟨n', rfl⟩ | ⟨hE, hsmall⟩
  · push_cast
    rcases eq_or_ne n' n with rfl | hne
    · exact ⟨le_rfl, fun h => absurd rfl h⟩
    · obtain ⟨hle, htie⟩ := multiples n' hne
      refine ⟨hle, fun _ heq => ?_⟩
      rw [← sub_mul, ← mul_assoc]
      exact mul_dvd_mul_right (htie heq) _
  · have hlow := hlow hE
    have hfar : |r - n * 2 ^ E| ≤ |r - (2 ^ 23 : ℕ) * 2 ^ E| := by
      rcases eq_or_ne (2 ^ 23) n with rfl | hne
      · exact le_rfl
      · exact (multiples _ hne).1
    rw [Nat.cast_pow, Nat.cast_ofNat, abs_of_nonneg (sub_nonneg.mpr hlow)] at hfar
    have hsmall : (k' : ℚ) < 2 ^ 23 * 2 ^ E := by exact_mod_cast hsmall
    have hlt : |r - n * 2 ^ E| < |r - k'| := by
      rw [abs_of_pos (by linarith : 0 < r - k')]
      linarith
    push_cast
    exact ⟨hlt.le, fun _ heq => absurd heq hlt.ne⟩

/-! ### `roundToGrid` -/

/-- The exponent of the spacing at a magnitude. -/
def spacingExp (num den : ℕ) : ℕ := Nat.log2 (num / den) + 1 - 24

theorem spacing_eq (num den : ℕ) : spacing num den = 2 ^ spacingExp num den := rfl

/-- A magnitude has fewer than 2^24 of its spacings. -/
theorem lt_spacing (num : ℕ) {den : ℕ} (hden : 0 < den) : (num : ℚ) / den < 2 ^ 24 * 2 ^ spacingExp num den := by
  have hq : (0 : ℚ) < den := by exact_mod_cast hden
  have hlt : num / den < 2 ^ 24 * 2 ^ spacingExp num den :=
    calc num / den < 2 ^ (Nat.log2 (num / den) + 1) := Nat.lt_log2_self
      _ ≤ 2 ^ (24 + spacingExp num den) := Nat.pow_le_pow_right two_pos (by unfold spacingExp; omega)
      _ = 2 ^ 24 * 2 ^ spacingExp num den := pow_add _ _ _
  rw [div_lt_iff₀ hq]
  exact_mod_cast (Nat.div_lt_iff_lt_mul hden).mp hlt

/-- Where the spacing is more than one unit, a magnitude has at least 2^23 of its spacings. -/
theorem spacing_le (num : ℕ) {den : ℕ} (hden : 0 < den) (h : 0 < spacingExp num den) :
    2 ^ 23 * 2 ^ spacingExp num den ≤ (num : ℚ) / den := by
  have hq : (0 : ℚ) < den := by exact_mod_cast hden
  have hexp : Nat.log2 (num / den) = 23 + spacingExp num den := by
    unfold spacingExp at h ⊢
    omega
  have hne : num / den ≠ 0 := by
    intro h0
    rw [h0] at hexp
    simp at hexp
    omega
  have hle : 2 ^ 23 * 2 ^ spacingExp num den ≤ num / den := by
    rw [← pow_add, ← hexp]
    exact Nat.log2_self_le hne
  rw [le_div_iff₀ hq]
  exact_mod_cast (Nat.le_div_iff_mul_le hden).mp hle

/-- R14, R200: `roundToGrid` is to nearest, ties to even. -/
theorem nearestEven_roundToGrid (num : ℕ) {den : ℕ} (hden : 0 < den) :
    NearestEven ((num : ℚ) / den) (roundToGrid num den) := by
  have hq : (den : ℚ) ≠ 0 := by positivity
  have hg : (0 : ℚ) < 2 ^ spacingExp num den := by positivity
  obtain ⟨hhalf, heven⟩ := divNearestEven_spec num (den := den * 2 ^ spacingExp num den) (by positivity)
  have hscaled : |(num : ℚ) / den - divNearestEven num (den * 2 ^ spacingExp num den) * 2 ^ spacingExp num den|
      = |(num : ℚ) / (den * 2 ^ spacingExp num den : ℕ) - divNearestEven num (den * 2 ^ spacingExp num den)|
        * 2 ^ spacingExp num den := by
    rw [← abs_of_pos hg, ← abs_mul, abs_of_pos hg, sub_mul]
    push_cast
    rw [div_mul_eq_div_div, div_mul_cancel₀ _ hg.ne']
  unfold roundToGrid
  rw [spacing_eq]
  refine nearestEven_of_nearest_multiple (spacing_le num hden) (lt_spacing num hden) ?_ fun h => heven ?_
  · rw [hscaled]
    linarith [mul_le_mul_of_nonneg_right hhalf hg.le]
  · rw [hscaled] at h
    exact mul_right_cancel₀ hg.ne' (by linarith)

/-- Settles O26: a binary32 magnitude is on the grid, of which the rounded magnitude is the nearest value. -/
theorem roundingIsNearest : Obligations.RoundingIsNearest := by
  intro num den hden
  have hnearest := nearestEven_roundToGrid num hden
  exact ⟨fun w _ => (hnearest.2 (units w) (onGrid_units w)).1, hnearest⟩

end Sys2Proof.Machine.Binary32
end

section
/-! PROOFS. The binary32 operations on finite operands (spec 00_scope.md R14; 42_filter_chain.md R200, R201): the exact
result, rounded once and packed. -/

namespace Sys2Proof.Machine.Binary32

/-! ### Words and their fields -/

theorem sign_eq (w : Word) : sign w = decide (2 ^ 31 ≤ w.toNat) := BitVec.getLsbD_last w

theorem expField_eq (w : Word) : expField w = w.toNat / 2 ^ 23 % 2 ^ 8 := by
  rw [expField, BitVec.extractLsb'_toNat, Nat.shiftRight_eq_div_pow]

theorem fracField_eq (w : Word) : fracField w = w.toNat % 2 ^ 23 := by
  rw [fracField, BitVec.extractLsb'_toNat, Nat.shiftRight_zero]

/-- A zero's word with 31 bits set below the sign. -/
theorem zero_or_toNat (neg : Bool) {body : ℕ} (h : body < 2 ^ 31) :
    (zero neg ||| BitVec.ofNat 32 body).toNat = neg.toNat * 2 ^ 31 + body := by
  have hmod : body % 2 ^ 32 = body := Nat.mod_eq_of_lt (by omega)
  rw [BitVec.toNat_or, BitVec.toNat_ofNat, hmod]
  cases neg with
  | false => simp [zero]
  | true => exact (Nat.two_pow_add_eq_or_of_lt h 1).symm

/-- The fields of a word that is put together from a sign, an exponent and a fraction (R85). -/
theorem fields_of_parts (neg : Bool) {e f : ℕ} (he : e < 2 ^ 8) (hf : f < 2 ^ 23) :
    sign (zero neg ||| BitVec.ofNat 32 (e * 2 ^ 23 + f)) = neg
      ∧ expField (zero neg ||| BitVec.ofNat 32 (e * 2 ^ 23 + f)) = e
      ∧ fracField (zero neg ||| BitVec.ofNat 32 (e * 2 ^ 23 + f)) = f := by
  rw [sign_eq, expField_eq, fracField_eq, zero_or_toNat neg (by omega)]
  cases neg with
  | false => simp only [Bool.toNat_false, decide_eq_false_iff_not]; omega
  | true => simp only [Bool.toNat_true, decide_eq_true_eq]; omega

theorem isFinite_iff (w : Word) : isFinite w = true ↔ expField w ≠ 0xFF := by simp [isFinite]

theorem not_isNaN_of_isFinite {w : Word} (h : isFinite w = true) : isNaN w = false := by
  simp [isNaN, (isFinite_iff w).mp h]

theorem not_isInf_of_isFinite {w : Word} (h : isFinite w = true) : isInf w = false := by
  simp [isInf, (isFinite_iff w).mp h]

/-! ### Packing -/

theorem log2_lt_iff_of_pos {k b : ℕ} (hb : 0 < b) : Nat.log2 k < b ↔ k < 2 ^ b := by
  rcases eq_or_ne k 0 with rfl | hk
  · simp [hb]
  · exact Nat.log2_lt hk

/-- From 2^277 units up a magnitude packs as an infinity. -/
theorem pack_of_overflow (neg : Bool) {k : ℕ} (h : 2 ^ 277 ≤ k) : pack neg k = inf neg := by
  have hlog : 277 ≤ Nat.log2 k := not_lt.mp fun hlt => absurd ((log2_lt_iff_of_pos (by omega)).mp hlt) (not_lt.mpr h)
  rw [pack, if_pos hlog]

/-- Below 2^23 units the magnitude is the fraction of a zero's or a subnormal's word. -/
theorem pack_of_small (neg : Bool) {k : ℕ} (h : k < 2 ^ 23) :
    pack neg k = zero neg ||| BitVec.ofNat 32 (0 * 2 ^ 23 + k) := by
  have hlog : Nat.log2 k < 23 := (log2_lt_iff_of_pos (by omega)).mpr h
  rw [pack, if_neg (by omega)]
  dsimp only
  rw [if_pos h, Nat.zero_mul, Nat.zero_add]
  rfl

/-- A magnitude of 24 significant bits packs as the word of its leading bit's place and the 23 bits below that one. -/
theorem pack_of_normal (neg : Bool) {e m : ℕ} (he : e < 254) (hlow : 2 ^ 23 ≤ m) (hhigh : m < 2 ^ 24) :
    pack neg (m * 2 ^ e) = zero neg ||| BitVec.ofNat 32 ((e + 1) * 2 ^ 23 + (m - 2 ^ 23)) := by
  have hpos : 0 < 2 ^ e := by positivity
  have hk : ¬m * 2 ^ e < 2 ^ 23 := not_lt.mpr (hlow.trans (Nat.le_mul_of_pos_right m hpos))
  have hlog : Nat.log2 (m * 2 ^ e) = e + 23 := by
    have hne : m * 2 ^ e ≠ 0 := by positivity
    apply le_antisymm
    · rw [← Nat.lt_succ_iff, Nat.log2_lt hne, show (e + 23).succ = 24 + e by omega, pow_add]
      exact Nat.mul_lt_mul_of_pos_right hhigh hpos
    · rw [Nat.le_log2 hne, add_comm, pow_add]
      exact Nat.mul_le_mul_right _ hlow
  rw [pack, hlog, if_neg (by omega)]
  dsimp only
  rw [if_neg hk, show e + 23 - 22 = e + 1 by omega, Nat.add_sub_cancel, Nat.mul_div_cancel m hpos]
  rfl

/-- A magnitude of the grid is subnormal or has a leading bit and 23 bits below it. -/
theorem OnGrid.small_or_normal {k : ℕ} (h : OnGrid k) :
    k < 2 ^ 23 ∨ ∃ m e, 2 ^ 23 ≤ m ∧ m < 2 ^ 24 ∧ k = m * 2 ^ e := by
  obtain ⟨m, e, hm, rfl⟩ := h
  induction e generalizing m with
  | zero =>
    rcases Nat.lt_or_ge m (2 ^ 23) with hlt | hge
    · exact .inl (by simpa using hlt)
    · exact .inr ⟨m, 0, hge, hm, rfl⟩
  | succ e ih =>
    rcases Nat.lt_or_ge m (2 ^ 23) with hlt | hge
    · have := ih (m * 2) (by omega)
      rwa [mul_assoc, ← pow_succ'] at this
    · exact .inr ⟨m, e + 1, hge, hm, rfl⟩

/-- A magnitude of the grid below 2^277 units packs as a finite word of that sign and magnitude (R85). -/
theorem pack_onGrid (neg : Bool) {k : ℕ} (hgrid : OnGrid k) (h : k < 2 ^ 277) :
    isFinite (pack neg k) = true ∧ sign (pack neg k) = neg ∧ units (pack neg k) = k := by
  rcases hgrid.small_or_normal with hsmall | ⟨m, e, hlow, hhigh, rfl⟩
  · obtain ⟨hsign, hexp, hfrac⟩ := fields_of_parts neg (e := 0) (by norm_num) hsmall
    rw [pack_of_small neg hsmall, isFinite_iff, units, hexp, hfrac]
    exact ⟨by norm_num, hsign, if_pos rfl⟩
  · have he : e < 254 := by
      have hpow : 2 ^ (23 + e) < 2 ^ 277 := by
        rw [pow_add]
        exact (Nat.mul_le_mul_right _ hlow).trans_lt h
      have hexp : 23 + e < 277 := (pow_lt_pow_iff_right₀ one_lt_two).mp hpow
      exact Nat.lt_of_add_lt_add_left (n := 23) hexp
    clear h
    obtain ⟨hsign, hexp, hfrac⟩ := fields_of_parts neg (e := e + 1) (f := m - 2 ^ 23) (by omega) (by omega)
    rw [pack_of_normal neg he hlow hhigh, isFinite_iff, units, hexp, hfrac, if_neg (by omega)]
    exact ⟨by omega, hsign, by rw [Nat.add_sub_cancel, Nat.add_sub_cancel' hlow]⟩

/-! ### Results -/

/-- R200, R201: `result` is the exact magnitude rounded once, with its sign. -/
theorem roundsTo_result (neg : Bool) (num : ℕ) {den : ℕ} (hden : 0 < den) :
    RoundsTo neg ((num : ℚ) / den) (result Config.ftz neg num den) := by
  have hnearest := nearestEven_roundToGrid num hden
  refine ⟨roundToGrid num den, hnearest, fun hover => ?_, fun hftz hpos hsub => ?_, fun hlt hkept => ?_⟩
  · have hpow : 2 ^ 23 ≤ 2 ^ 277 := pow_le_pow_right₀ one_le_two (by norm_num)
    have hbig : ¬roundToGrid num den < 2 ^ 23 := not_lt.mpr (hpow.trans hover)
    simp only [result, hbig, decide_false, Bool.false_and, Bool.false_eq_true, if_false]
    exact pack_of_overflow neg hover
  · simp only [result, hftz, hsub, hpos.ne', decide_true, bne_iff_ne, ne_eq, not_false_eq_true, Bool.and_true,
      Bool.true_and, if_true]
    rfl
  · have hpack : result Config.ftz neg num den = pack neg (roundToGrid num den) := by
      rw [result]
      refine if_neg ?_
      rcases hkept with h | h | h
      · simp [h]
      · simp [h]
      · rw [decide_eq_false (not_lt.mpr h)]
        simp
    rw [hpack]
    exact pack_onGrid neg hnearest.1 hlt

/-- An exact zero is the zero of its sign. -/
theorem result_zero (ftz neg : Bool) (den : ℕ) : result ftz neg 0 den = zero neg := by
  have hround : roundToGrid 0 den = 0 := by simp [roundToGrid, divNearestEven]
  rw [result, hround]
  cases neg <;> rfl

/-! ### Signed values -/

/-- The value of a sign and a magnitude. -/
def signedValue (neg : Bool) (m : ℕ) : ℚ := (if neg then -1 else 1) * m

theorem valueRead_eq (w : Word) : valueRead w = signedValue (sign w) (operandUnits Config.ftz w) := by
  rw [valueRead, signedValue, operandUnits, Bool.and_comm]
  split <;> simp

theorem signedValue_eq_zero {neg : Bool} {m : ℕ} : signedValue neg m = 0 ↔ m = 0 := by
  cases neg <;> simp [signedValue]

theorem abs_signedValue (neg : Bool) (m : ℕ) : |signedValue neg m| = m := by
  cases neg <;> simp [signedValue]

theorem signedValue_neg_iff {neg : Bool} {m : ℕ} (h : m ≠ 0) : decide (signedValue neg m < 0) = neg := by
  cases neg <;> simp [signedValue, Nat.pos_of_ne_zero h]

theorem signedValue_add (neg : Bool) (m n : ℕ) : signedValue neg m + signedValue neg n = signedValue neg (m + n) := by
  simp only [signedValue]
  push_cast
  ring

theorem signedValue_not (neg : Bool) (m : ℕ) : signedValue (!neg) m = -signedValue neg m := by
  cases neg <;> simp [signedValue]

theorem signedValue_sub (neg : Bool) {m n : ℕ} (h : n ≤ m) :
    signedValue neg m + signedValue (!neg) n = signedValue neg (m - n) := by
  rw [signedValue_not]
  simp only [signedValue, Nat.cast_sub h]
  ring

/-! ### Sums and differences -/

/-- The sum of two finite words is the result of its exact value; an exact zero is negative only of two negative
summands (R201 (b)). -/
theorem fadd_eq_result {a b : Word} (ha : isFinite a = true) (hb : isFinite b = true) :
    ∃ neg m, valueRead a + valueRead b = signedValue neg m ∧ fadd a b = result Config.ftz neg m 1
      ∧ (m = 0 → neg = (sign a && sign b)) := by
  have hadd : fadd a b = if sign a = sign b then
      (if operandUnits Config.ftz a + operandUnits Config.ftz b = 0 then zero (sign a)
        else result Config.ftz (sign a) (operandUnits Config.ftz a + operandUnits Config.ftz b) 1)
      else if operandUnits Config.ftz a = operandUnits Config.ftz b then zero false
      else if operandUnits Config.ftz b < operandUnits Config.ftz a then
        result Config.ftz (sign a) (operandUnits Config.ftz a - operandUnits Config.ftz b) 1
      else result Config.ftz (sign b) (operandUnits Config.ftz b - operandUnits Config.ftz a) 1 := by
    simp only [fadd, add, not_isNaN_of_isFinite ha, not_isNaN_of_isFinite hb, not_isInf_of_isFinite ha,
      not_isInf_of_isFinite hb, Bool.or_self, Bool.false_eq_true, if_false]
  rw [hadd, valueRead_eq, valueRead_eq]
  generalize operandUnits Config.ftz a = ua
  generalize operandUnits Config.ftz b = ub
  by_cases hsign : sign a = sign b
  · refine ⟨sign a, ua + ub, ?_, ?_, fun _ => by rw [← hsign, Bool.and_self]⟩
    · rw [← hsign, signedValue_add]
    · rw [if_pos hsign]
      split
      · rename_i hzero
        rw [hzero, result_zero]
      · rfl
  · have hnot : sign b = !sign a := Bool.eq_not.mpr (Ne.symm hsign)
    rw [if_neg hsign, hnot]
    rcases lt_trichotomy ub ua with hlt | rfl | hgt
    · refine ⟨sign a, ua - ub, signedValue_sub _ hlt.le, ?_, by omega⟩
      rw [if_neg hlt.ne', if_pos hlt]
    · refine ⟨false, 0, ?_, ?_, by simp⟩
      · rw [signedValue_sub _ le_rfl, Nat.sub_self]
        simp [signedValue]
      · rw [if_pos rfl, result_zero]
    · refine ⟨!sign a, ub - ua, ?_, ?_, by omega⟩
      · have h := signedValue_sub (!sign a) hgt.le
        rwa [Bool.not_not, add_comm] at h
      · rw [if_neg hgt.ne, if_neg (by omega)]

/-- R200, R201 (b): the sum of two finite words. -/
theorem fadd_spec {a b : Word} (ha : isFinite a = true) (hb : isFinite b = true) :
    (valueRead a + valueRead b ≠ 0 →
        RoundsTo (decide (valueRead a + valueRead b < 0)) |valueRead a + valueRead b| (fadd a b))
      ∧ (valueRead a + valueRead b = 0 → fadd a b = zero (sign a && sign b)) := by
  obtain ⟨neg, m, hvalue, hresult, hzero⟩ := fadd_eq_result ha hb
  rw [hvalue, hresult, abs_signedValue, ne_eq, signedValue_eq_zero]
  constructor
  · intro hm
    rw [signedValue_neg_iff hm]
    simpa using roundsTo_result neg m one_pos
  · rintro rfl
    rw [result_zero, hzero rfl]

theorem sign_neg (w : Word) : sign (neg w) = !sign w := by
  simp [sign, neg]

theorem expField_neg (w : Word) : expField (neg w) = expField w := by
  rw [expField, neg, BitVec.extractLsb'_xor, show (0x80000000#32).extractLsb' 23 8 = 0#8 by decide, BitVec.xor_zero]
  rfl

theorem fracField_neg (w : Word) : fracField (neg w) = fracField w := by
  rw [fracField, neg, BitVec.extractLsb'_xor, show (0x80000000#32).extractLsb' 0 23 = 0#23 by decide, BitVec.xor_zero]
  rfl

theorem isFinite_neg (w : Word) : isFinite (neg w) = isFinite w := by
  rw [isFinite, isFinite, expField_neg]

theorem operandUnits_neg (ftz : Bool) (w : Word) : operandUnits ftz (neg w) = operandUnits ftz w := by
  have hsub : isSubnormal (neg w) = isSubnormal w := by rw [isSubnormal, isSubnormal, expField_neg, fracField_neg]
  rw [operandUnits, operandUnits, hsub, units, units, expField_neg, fracField_neg]

theorem valueRead_neg (w : Word) : valueRead (neg w) = -valueRead w := by
  rw [valueRead_eq, valueRead_eq, sign_neg, operandUnits_neg, signedValue_not]

/-- A difference is the sum with the second operand's sign turned. -/
theorem fsub_eq_fadd_neg (a : Word) {b : Word} (hb : isFinite b = true) : fsub a b = fadd a (neg b) := by
  simp [fsub, fadd, sub, not_isNaN_of_isFinite hb]

/-- R200, R201 (b): the difference of two finite words. -/
theorem fsub_spec {a b : Word} (ha : isFinite a = true) (hb : isFinite b = true) :
    (valueRead a - valueRead b ≠ 0 →
        RoundsTo (decide (valueRead a - valueRead b < 0)) |valueRead a - valueRead b| (fsub a b))
      ∧ (valueRead a - valueRead b = 0 → fsub a b = zero (sign a && !sign b)) := by
  have h := fadd_spec ha ((isFinite_neg b).trans hb)
  rwa [valueRead_neg, sign_neg, ← sub_eq_add_neg, ← fsub_eq_fadd_neg a hb] at h

/-! ### Products and quotients -/

/-- R200: the product of two finite words. -/
theorem fmul_spec {a b : Word} (ha : isFinite a = true) (hb : isFinite b = true) :
    RoundsTo (sign a != sign b) (|valueRead a * valueRead b| / 2 ^ 149) (fmul a b) := by
  have hresult : fmul a b = result Config.ftz (sign a != sign b)
      (operandUnits Config.ftz a * operandUnits Config.ftz b) (2 ^ 149) := by
    simp only [fmul, mul, not_isNaN_of_isFinite ha, not_isNaN_of_isFinite hb, not_isInf_of_isFinite ha,
      not_isInf_of_isFinite hb, Bool.or_self, Bool.false_eq_true, if_false]
    split
    · rename_i hzero
      rw [hzero, result_zero]
    · rfl
  have hvalue : |valueRead a * valueRead b| = (operandUnits Config.ftz a * operandUnits Config.ftz b : ℕ) := by
    rw [abs_mul, valueRead_eq, valueRead_eq, abs_signedValue, abs_signedValue, Nat.cast_mul]
  rw [hresult, hvalue]
  exact_mod_cast roundsTo_result (sign a != sign b) (operandUnits Config.ftz a * operandUnits Config.ftz b)
    (den := 2 ^ 149) (by positivity)

theorem valueRead_eq_zero {w : Word} : valueRead w = 0 ↔ operandUnits Config.ftz w = 0 := by
  rw [valueRead_eq, signedValue_eq_zero]

/-- R200: the quotient of two finite words, the second not read as a zero. -/
theorem fdiv_spec {a b : Word} (ha : isFinite a = true) (hb : isFinite b = true) (hne : valueRead b ≠ 0) :
    RoundsTo (sign a != sign b) (|valueRead a / valueRead b| * 2 ^ 149) (fdiv a b) := by
  have hub : operandUnits Config.ftz b ≠ 0 := fun h => hne (valueRead_eq_zero.mpr h)
  have hresult : fdiv a b = result Config.ftz (sign a != sign b)
      (operandUnits Config.ftz a * 2 ^ 149) (operandUnits Config.ftz b) := by
    simp only [fdiv, div, not_isNaN_of_isFinite ha, not_isNaN_of_isFinite hb, not_isInf_of_isFinite ha,
      not_isInf_of_isFinite hb, hub, Bool.or_self, Bool.false_eq_true, if_false]
    split
    · rename_i hzero
      rw [hzero, Nat.zero_mul, result_zero]
    · rfl
  have hvalue : |valueRead a / valueRead b| * 2 ^ 149
      = ((operandUnits Config.ftz a * 2 ^ 149 : ℕ) : ℚ) / operandUnits Config.ftz b := by
    rw [abs_div, valueRead_eq, valueRead_eq, abs_signedValue, abs_signedValue, div_mul_eq_mul_div, Nat.cast_mul,
      Nat.cast_pow, Nat.cast_ofNat]
  rw [hresult, hvalue]
  exact roundsTo_result _ _ (Nat.pos_of_ne_zero hub)

/-- R201 (c): a finite word over one that is read as a zero. -/
theorem fdiv_zero {a b : Word} (ha : isFinite a = true) (hb : isFinite b = true) (hzero : valueRead b = 0) :
    fdiv a b = if valueRead a = 0 then qnan else inf (sign a != sign b) := by
  simp only [fdiv, div, not_isNaN_of_isFinite ha, not_isNaN_of_isFinite hb, not_isInf_of_isFinite ha,
    not_isInf_of_isFinite hb, valueRead_eq_zero.mp hzero, valueRead_eq_zero, Bool.or_self, Bool.false_eq_true,
    if_false, if_true]

/-- Settles O28: every operation on finite operands is `result` of its exact value, which rounds once. -/
theorem arithmeticRoundsExactResult : Obligations.ArithmeticRoundsExactResult := by
  intro a b ha hb
  obtain ⟨hadd, haddZero⟩ := fadd_spec ha hb
  obtain ⟨hsub, hsubZero⟩ := fsub_spec ha hb
  refine ⟨hadd, fun h => ?_, hsub, fun h => ?_, fmul_spec ha hb, fdiv_spec ha hb, fdiv_zero ha hb⟩
  · rw [haddZero h, zero]
    simp only [Bool.and_eq_true]
  · rw [hsubZero h, zero]
    simp only [Bool.and_eq_true, Bool.not_eq_true']

end Sys2Proof.Machine.Binary32
end

section
/-! PROOFS. The two bus transactions where no error is raised (spec 40_commands.md R130, R131), and the bits of the words
that show flags and fields (spec 10_state.md R36, R39, R44, R47, R53): the rules the register statements rest on. -/

namespace Sys2Proof.Machine

/-! ### When a transaction raises no error -/

/-- A REG_READ raises no error exactly at an aligned mapped address that is not busy (R130, R306). -/
theorem readFailure_eq_none (s : State) (a : BusAddr) : readFailure s a = none ↔
    a.toNat % 4 = 0 ∧ region a ≠ .unmapped ∧ ((region a).busyRefused = true → s.astate = .idle) := by
  rw [← aligned_iff]
  unfold readFailure State.busyA
  split
  · simp_all
  · split
    · simp_all
    · split <;> simp_all

/-- A REG_WRITE raises no error before its effect exactly with all strobes at an aligned mapped address that may be
written and is not busy (R131, R306). -/
theorem writeFailure_eq_none (s : State) (a : BusAddr) (strb : BitVec 4) : writeFailure s a strb = none ↔
    a.toNat % 4 = 0 ∧ strb = 0xF#4 ∧ region a ≠ .unmapped ∧ (region a).writeRefused = false
      ∧ ((region a).busyRefused = true → s.astate = .idle) := by
  rw [← aligned_iff]
  unfold writeFailure State.busyA
  split
  · rename_i hbad
    refine ⟨nofun, fun ⟨ha, hs, _⟩ => ?_⟩
    simp [ha, hs] at hbad
  · rename_i hgood
    obtain ⟨ha, hs⟩ : aligned a = true ∧ strb = 0xF#4 := by simpa using hgood
    split
    · simp [*]
    · split
      · simp [*]
      · split <;> simp_all

/-- R130: a REG_READ without an error returns what the location holds. -/
theorem exec_regRead_of_ok {s : State} {a : BusAddr} (h : readFailure s a = none) :
    exec (.regRead a) s = .next ((readSideEffect s (region a)).readDone (s.readRegion (region a))) := by
  simp only [exec, execRegRead, h]

/-- R131: a REG_WRITE without an error stores, but at CMD. -/
theorem exec_regWrite_of_ok {s : State} {a : BusAddr} {strb : BitVec 4} (h : writeFailure s a strb = none)
    (hcmd : region a ≠ .ctrl .cmd) (v : Word) :
    exec (.regWrite a strb v) s = .next (s.writeRegion (region a) v).writeDone := by
  simp only [exec, execRegWrite, h, hcmd, if_false]

/-- R131: a full-strobe write of a register that takes data stores it. -/
theorem exec_regWrite_ctrl {r : CtrlReg} (haccess : r.access = .rw ∨ r.access = .w1c)
    (haddr : (ctrlAddr r).toNat % 4 = 0) (v : Word) (s : State) :
    exec (.regWrite (ctrlAddr r) 0xF#4 v) s = .next (s.writeReg r v).writeDone := by
  have hr : region (ctrlAddr r) = .ctrl r := (region_ctrl_iff haddr r).mpr rfl
  have hok : writeFailure s (ctrlAddr r) 0xF#4 = none := by
    rw [writeFailure_eq_none, hr]
    rcases haccess with h | h <;> simp [haddr, Region.writeRefused, Region.busyRefused, h]
  have hcmd : r ≠ .cmd := by
    rintro rfl
    rcases haccess with h | h <;> cases h
  rw [exec_regWrite_of_ok hok (by simpa [hr] using hcmd), hr]
  rfl

/-! ### Bits of the words that show flags and fields -/

/-- A field shows at its place (R11). -/
theorem getLsbD_fieldAt {n : Nat} (x : BitVec n) (lo i : Nat) :
    (fieldAt x lo).getLsbD i = (decide (i < 32) && decide (lo ≤ i) && x.getLsbD (i - lo)) := by
  rw [fieldAt, BitVec.getLsbD_shiftLeft, BitVec.getLsbD_setWidth]
  by_cases hi : i < 32
  · by_cases hlo : i < lo
    · simp [hlo, not_le.mpr hlo]
    · simp [hi, hlo, not_lt.mp hlo, show i - lo < 32 by omega]
  · simp [hi]

/-- A flag shows at its bit. -/
theorem getLsbD_flagAt (b : Bool) (lo i : Nat) :
    (flagAt b lo).getLsbD i = (decide (i < 32) && decide (i = lo) && b) := by
  rw [show flagAt b lo = fieldAt (BitVec.ofBool b) lo from rfl, getLsbD_fieldAt, BitVec.getLsbD_ofBool]
  by_cases h : i = lo
  · simp [h]
  · by_cases hlo : lo ≤ i
    · simp [h, show i - lo ≠ 0 by omega]
    · simp [h, hlo]

/-- A field at bit 0 is the field below zeros. -/
theorem fieldAt_zero_eq_append {n k : Nat} (h : k + n = 32) (x : BitVec n) : fieldAt x 0 = (0#k ++ x).cast h := by
  apply BitVec.eq_of_getLsbD_eq
  intro i hi
  rw [getLsbD_fieldAt, BitVec.getLsbD_cast, BitVec.getLsbD_append]
  by_cases hin : i < n
  · simp [hi, hin]
  · simp [hin, BitVec.getLsbD_of_ge x i (not_lt.mp hin)]

/-! ### Values of the words that show fields -/

/-- A field at bit 0 is its value. -/
theorem fieldAt_zero_toNat {n : Nat} (hn : n ≤ 32) (x : BitVec n) : (fieldAt x 0).toNat = x.toNat := by
  rw [fieldAt, BitVec.shiftLeft_zero]
  exact BitVec.toNat_setWidth_of_le hn

/-- A field placed above a word's bits adds its value at its place. -/
theorem or_fieldAt_toNat {n lo : Nat} {x : Word} (hx : x.toNat < 2 ^ lo) (y : BitVec n) (hfit : n + lo ≤ 32) :
    (x ||| fieldAt y lo).toNat = x.toNat + y.toNat * 2 ^ lo := by
  have hy : y.toNat * 2 ^ lo < 2 ^ 32 := by
    calc y.toNat * 2 ^ lo < 2 ^ n * 2 ^ lo := Nat.mul_lt_mul_of_pos_right y.isLt (by positivity)
      _ = 2 ^ (n + lo) := (pow_add 2 n lo).symm
      _ ≤ 2 ^ 32 := Nat.pow_le_pow_right (by norm_num) hfit
  have hfield : (fieldAt y lo).toNat = y.toNat <<< lo := by
    rw [fieldAt, BitVec.toNat_shiftLeft, BitVec.toNat_setWidth_of_le (by omega), Nat.shiftLeft_eq,
      Nat.mod_eq_of_lt hy]
  rw [BitVec.toNat_or, hfield, Nat.or_comm, ← Nat.shiftLeft_add_eq_or_of_lt hx, Nat.shiftLeft_eq, Nat.add_comm]

/-- A field placed below another one. -/
theorem toNat_append_eq_add {n m : Nat} (x : BitVec n) (y : BitVec m) : (x ++ y).toNat = x.toNat * 2 ^ m + y.toNat := by
  rw [BitVec.toNat_append, ← Nat.shiftLeft_add_eq_or_of_lt y.isLt, Nat.shiftLeft_eq]

end Sys2Proof.Machine
end

section
/-! PROOFS. The invariants every step keeps (spec 10_state.md R39, R45, R48, R56–R60; 60_exceptions.md R318): one rule
that takes a step apart into an operation of HOST, an agent's turn and the reset input, then one lemma for each of these
and each invariant. -/

namespace Sys2Proof.Machine

/-- What is to come and the clock do not enter an invariant: a step keeps it if every operation of HOST and every turn
does, and the reset input establishes it. -/
theorem invariant_of_effects {P : State → Prop}
    (model : ∀ (s : State) (l : List Input) (n : Nat), P s → P { s with inputs := l, clock := n })
    (host : ∀ s t, P s → HostEffect s t → P t) (agent : ∀ a s, P s → P (turn a s))
    (reset : ∀ s, P (hardwareReset s)) {s t : State} (hs : P s) (h : step s = .next t) : P t := by
  cases step_next h with
  | host op rest hin t run => exact host _ _ (model s rest s.clock hs) (exec_next run)
  | agent a rest hin => exact agent a _ (model s rest s.clock hs)
  | reset rest hin => exact reset _
  | free hin => exact agent _ _ (model s s.inputs (s.clock + 1) hs)

/-! ### Registers -/

/-- The register invariant reads these five fields only. -/
theorem State.RegistersLegal.congr {s t : State} (h : s.RegistersLegal)
    (eq : t.inCh = s.inCh ∧ t.dbFloor = s.dbFloor ∧ t.actCoef = s.actCoef ∧ t.tickPeriod = s.tickPeriod
      ∧ t.tcnt = s.tcnt) : t.RegistersLegal := by
  obtain ⟨h1, h2, h3, h4, h5⟩ := eq
  simpa only [State.RegistersLegal, h1, h2, h3, h4, h5] using h

/-- R39: the value 3 is stored as 2. -/
theorem storedInCh_ne_three (x : BitVec 2) : (if x = 3 then 2 else x) ≠ 3 := by
  split
  · decide
  · assumption

theorem writeReg_registersLegal {s : State} (h : s.RegistersLegal) (r : CtrlReg) (v : Word) :
    (s.writeReg r v).RegistersLegal := by
  obtain ⟨hin, hfloor, hcoef, htimer⟩ := h
  cases r with
  | ctrl => exact ⟨storedInCh_ne_three _, hfloor, hcoef, htimer⟩
  | dbFloor =>
    simp only [State.writeReg]
    split
    · rename_i hfinite
      exact ⟨hin, hfinite, hcoef, htimer⟩
    · exact ⟨hin, hfloor, hcoef, htimer⟩
  | tickPeriod => exact ⟨hin, hfloor, hcoef, (BitVec.pos_iff_ne_zero _).mpr⟩
  | _ => exact ⟨hin, hfloor, hcoef, htimer⟩

theorem writeRegion_registersLegal {s : State} (h : s.RegistersLegal) (r : Region) (v : Word) :
    (s.writeRegion r v).RegistersLegal := by
  cases r with
  | ctrl r => exact writeReg_registersLegal h r v
  | _ => exact h

theorem HostEffect.registersLegal {s t : State} (hs : s.RegistersLegal) (h : HostEffect s t) : t.RegistersLegal := by
  cases h with
  | prepare idle legal =>
    obtain ⟨hin, hfloor, hcoef, -⟩ := hs
    exact ⟨hin, hfloor, hcoef, (BitVec.pos_iff_ne_zero _).mpr⟩
  | process n prepared idle fits =>
    obtain ⟨hin, hfloor, -, htimer⟩ := hs
    rw [processEffect_eq]
    refine ⟨hin, hfloor, fun b => ?_, htimer⟩
    show ((mapBank committed s.shCoef)[b]).allFinite = true
    rw [mapBank_get]
    exact committed_allFinite _
  | setCut cut x => cases cut <;> exact hs
  | read a ok => unfold readSideEffect; split <;> exact hs
  | write a v ok notCmd => exact writeRegion_registersLegal hs _ v
  | _ => exact hs

/-- R318: a firing timer's count stays below its period: it returns to 0, or the next count is below the period. -/
theorem timerTurn_registersLegal {s : State} (h : s.RegistersLegal) : (timerTurn s).RegistersLegal := by
  obtain ⟨hin, hfloor, hcoef, htimer⟩ := h
  unfold timerTurn timerFire
  split
  · split
    · exact ⟨hin, hfloor, hcoef, (BitVec.pos_iff_ne_zero _).mpr⟩
    · rename_i hbelow
      exact ⟨hin, hfloor, hcoef, fun _ => BitVec.not_le.mp hbelow⟩
  · exact ⟨hin, hfloor, hcoef, htimer⟩

theorem turn_registersLegal (a : Agent) (s : State) (h : s.RegistersLegal) : (turn a s).RegistersLegal := by
  cases a with
  | audio => refine h.congr ?_; simp only [turn]; rw [audioTurn_frame]; exact ⟨rfl, rfl, rfl, rfl, rfl⟩
  | render => refine h.congr ?_; simp only [turn]; rw [renderTurn_frame]; exact ⟨rfl, rfl, rfl, rfl, rfl⟩
  | timer => exact timerTurn_registersLegal h
  | syncW c v => refine h.congr ?_; simp only [turn]; rw [syncWTurn_frame]; simp
  | syncR c v => refine h.congr ?_; simp only [turn]; rw [syncRTurn_frame]; simp

theorem reset_registersLegal : State.reset.RegistersLegal := by
  unfold State.RegistersLegal
  decide

/-- Settles O56: the stored values and the committed sets are legal by how they are made, and TIMER never counts to the
period. -/
theorem stepKeepsRegistersLegal : Obligations.StepKeepsRegistersLegal := fun _ _ hs h =>
  invariant_of_effects (P := State.RegistersLegal) (fun _ _ _ h => h) (fun _ _ h he => he.registersLegal h)
    turn_registersLegal (fun _ => reset_registersLegal) hs h

/-! ### Control -/

/-- The sequencers' ranges, one clause per active state (R57, R59). -/
theorem sequencersInRange_iff (s : State) : s.SequencersInRange ↔
    (∀ j n, s.astate = .run j n → j ≤ n ∧ n ≤ s.actBlkMax.toNat)
      ∧ (∀ c left, s.rstate = .pull c left → left ≤ Config.pullsPerTick)
      ∧ (∀ c left, s.rstate = .fft c left → left < Config.pullsPerTick) := by
  unfold State.SequencersInRange
  cases s.astate <;> cases s.rstate <;> simp

theorem sequencersInRange_of_idle {s : State} (ha : s.astate = .idle) (hr : s.rstate = .idle) :
    s.SequencersInRange := by
  simp [sequencersInRange_iff, ha, hr]

theorem engineActive_eq_false {s : State} : s.engineActive = false ↔ s.astate = .idle ∧ s.rstate = .idle := by
  simp [State.engineActive, State.busyA, State.busyR]

/-- What the control invariant asks of a prepared block. -/
theorem controlLegal_of_prepared {s : State} (hp : s.prepared = true) (range : s.SequencersInRange)
    (config : s.ActiveConfigLegal) (staging : ∀ c, (s.ch c).sidx.toNat < s.actFrameSize.toNat) : s.ControlLegal :=
  ⟨range, fun h => absurd (hp.symm.trans h) (by decide), fun _ => ⟨config, staging .L, staging .R⟩⟩

/-- What the control invariant asks of a block that is not prepared. -/
theorem controlLegal_of_unprepared {s : State} (hp : s.prepared = false)
    (idle : s.astate = .idle ∧ s.rstate = .idle ∧ s.tickReq = false) : s.ControlLegal :=
  ⟨sequencersInRange_of_idle idle.1 idle.2.1, fun _ => idle, fun h => absurd (hp.symm.trans h) (by decide)⟩

/-- R56: a prepared block's staging indices lie below its frame size. -/
theorem State.ControlLegal.staging {s : State} (h : s.ControlLegal) (hp : s.prepared = true) (c : Chan) :
    (s.ch c).sidx.toNat < s.actFrameSize.toNat := by
  obtain ⟨-, -, hprep⟩ := h
  obtain ⟨-, hL, hR⟩ := hprep hp
  cases c with
  | L => exact hL
  | R => exact hR

/-! #### Operations of HOST -/

/-- R136: a legal prepare-time configuration becomes a legal active one. -/
theorem prepareEffect_activeConfigLegal {s : State} (legal : s.configLegal = true) :
    (prepareEffect s).ActiveConfigLegal := by
  simp only [State.configLegal, Bool.and_eq_true, decide_eq_true_eq] at legal
  obtain ⟨⟨⟨⟨hsel, hpos⟩, hfit⟩, hblk⟩, hmax⟩ := legal
  have hsize : fftSizeOf s.fftSel = 2048 ∨ fftSizeOf s.fftSel = 4096 ∨ fftSizeOf s.fftSel = 8192 := by
    generalize s.fftSel = sel at hsel
    revert sel
    decide
  have hframe : (prepareEffect s).actFrameSize.toNat = s.frameSize.toNat := BitVec.toNat_setWidth_of_le (by omega)
  have hblkMax : (prepareEffect s).actBlkMax.toNat = s.blkMax.toNat := BitVec.toNat_setWidth_of_le (by omega)
  have hfft : (prepareEffect s).actFftSize = BitVec.ofNat 32 (fftSizeOf s.fftSel) := rfl
  have hfftNat : (prepareEffect s).actFftSize.toNat = fftSizeOf s.fftSel := by
    rw [hfft, BitVec.toNat_ofNat]
    omega
  refine ⟨?_, by omega, by omega, by omega, by omega⟩
  rw [hfft]
  rcases hsize with h | h | h <;> rw [h] <;> decide

/-- A write of a location changes nothing the control invariant reads. -/
theorem writeRegion_controlLegal {s : State} (h : s.ControlLegal) (r : Region) (v : Word) :
    (s.writeRegion r v).ControlLegal := by
  cases r with
  | ctrl r =>
    cases r with
    | dbFloor => simp only [State.writeRegion, State.writeReg]; split <;> exact h
    | _ => exact h
  | _ => exact h

theorem HostEffect.controlLegal {s t : State} (hs : s.ControlLegal) (h : HostEffect s t) : t.ControlLegal := by
  cases h with
  | prepare idle legal =>
    obtain ⟨ha, hr⟩ := engineActive_eq_false.mp idle
    have hconfig := prepareEffect_activeConfigLegal legal
    exact controlLegal_of_prepared rfl (sequencersInRange_of_idle ha hr) hconfig
      fun c => by cases c <;> exact hconfig.2.1
  | release idle =>
    obtain ⟨ha, hr⟩ := engineActive_eq_false.mp idle
    exact controlLegal_of_unprepared rfl ⟨ha, hr, rfl⟩
  | process n prepared idle fits =>
    obtain ⟨⟨-, hrange⟩, -, hprep⟩ := hs
    rw [processEffect_eq]
    exact ⟨⟨⟨Nat.zero_le _, fits⟩, hrange⟩, fun h => absurd (prepared.symm.trans h) (by decide), hprep⟩
  | tick prepared =>
    obtain ⟨hrange, -, hprep⟩ := hs
    exact ⟨hrange, fun h => absurd (prepared.symm.trans h) (by decide), hprep⟩
  | setCut cut x => cases cut <;> exact hs
  | read a ok => unfold readSideEffect; split <;> exact hs
  | write a v ok notCmd => exact writeRegion_controlLegal hs _ v
  | _ => exact hs

/-! #### AUDIO -/

/-- R241: a push returns the staging index to 0, accepted or refused. -/
theorem pushFrame_sidx (s : State) (c : Chan) : ((pushFrame s c).ch c).sidx = 0 := by
  unfold pushFrame
  dsimp only
  split <;> cases c <;> rfl

/-- R241: the tee keeps the staging index below the frame size. -/
theorem fifoTee_sidx {s : State} {c : Chan} (y : Word) (h : (s.ch c).sidx.toNat < s.actFrameSize.toNat)
    (hframe : s.actFrameSize.toNat < 2 ^ 14) : ((fifoTee s c y).ch c).sidx.toNat < s.actFrameSize.toNat := by
  unfold fifoTee
  dsimp only
  split
  · rw [pushFrame_sidx]
    exact Nat.lt_of_le_of_lt (Nat.zero_le _) h
  · rename_i hne
    rw [stageSample_eq, State.setCh_ch_same] at hne ⊢
    have hsucc : ((s.ch c).sidx + 1).toNat = (s.ch c).sidx.toNat + 1 := by
      rw [BitVec.toNat_add]
      exact Nat.mod_eq_of_lt (Nat.lt_of_le_of_lt h hframe)
    dsimp only at hne ⊢
    omega

theorem sampleChannel_sidx {s : State} {c : Chan} (j : Nat) (h : (s.ch c).sidx.toNat < s.actFrameSize.toNat)
    (hframe : s.actFrameSize.toNat < 2 ^ 14) : ((sampleChannel s c j).ch c).sidx.toNat < s.actFrameSize.toNat := by
  have hsame : ((chain s c (s.bufWord c j)).1.ch c).sidx = (s.ch c).sidx := by
    rw [chain_frame, State.setCh_ch_same]
  have hsize : (chain s c (s.bufWord c j)).1.actFrameSize = s.actFrameSize := by
    rw [chain_frame, State.setCh_actFrameSize]
  rw [← hsame, ← hsize] at h
  rw [← hsize] at hframe ⊢
  rw [sampleChannel_eq]
  exact fifoTee_sidx _ (by simpa using h) hframe

/-- R222: AUDIO's turn keeps the staging indices below the frame size. -/
theorem audioTurn_sidx {s : State} (h : ∀ c, (s.ch c).sidx.toNat < s.actFrameSize.toNat)
    (hframe : s.actFrameSize.toNat < 2 ^ 14) (c : Chan) : ((audioTurn s).ch c).sidx.toNat < s.actFrameSize.toNat := by
  unfold audioTurn
  split
  · exact h c
  · rename_i j n _
    split
    · rw [audioSample_eq]
      cases c with
      | L => exact sampleChannel_sidx j (h .L) hframe
      | R =>
        have hsize : (sampleChannel s .L j).actFrameSize = s.actFrameSize := by
          rw [sampleChannel_frame]; rfl
        have := sampleChannel_sidx (s := sampleChannel s .L j) (c := .R) j
        rw [sampleChannel_chR, hsize] at this
        exact this (h .R) hframe
    · split
      · cases c with
        | L => exact h .L
        | R => exact h .R
      · exact h c

/-- R222, R223: AUDIO's turn keeps its sequencer in range. -/
theorem audioTurn_inRange {s : State} (h : s.SequencersInRange) : (turn .audio s).SequencersInRange := by
  rw [sequencersInRange_iff] at h ⊢
  obtain ⟨hrun, hrender⟩ := h
  have hr : (turn .audio s).rstate = s.rstate := (turn_rstate_of_other (by decide) s).1
  have hblk : (turn .audio s).actBlkMax = s.actBlkMax := by simp only [turn]; rw [audioTurn_frame]
  rw [hr, hblk]
  refine ⟨fun j n hnext => ?_, hrender⟩
  cases ha : s.astate with
  | idle =>
    rw [turn_without_step (by simp [State.enabled, State.audioEnabled, ha]), ha] at hnext
    cases hnext
  | run i m =>
    obtain ⟨hi, hm⟩ := hrun i m ha
    rcases hi.lt_or_eq with hlt | rfl
    · rw [(turn_audio_sample ha hlt).1] at hnext
      cases hnext
      exact ⟨hlt, hm⟩
    · rw [(turn_audio_done ha).1] at hnext
      cases hnext

/-! #### RENDER -/

/-- R271, R272, R274, R276: RENDER's turn keeps its sequencer in range. -/
theorem renderTurn_inRange {s : State} (h : s.SequencersInRange) : (turn .render s).SequencersInRange := by
  rw [sequencersInRange_iff] at h ⊢
  obtain ⟨hrun, hpull, hfft⟩ := h
  have ha : (turn .render s).astate = s.astate := (turn_astate_of_other (by decide) s).1
  have hblk : (turn .render s).actBlkMax = s.actBlkMax := by simp only [turn]; rw [renderTurn_frame]
  rw [ha, hblk]
  refine ⟨hrun, ?_⟩
  simp only [turn, renderTurn]
  cases hr : s.rstate with
  | idle =>
    dsimp only
    split
    · simp [renderStart]
    · simp [hr]
  | pull c left =>
    have hleft := hpull c left hr
    dsimp only
    split
    · rename_i hp
      rw [renderPull_eq s c left hp.2]
      simp
      omega
    · cases c <;> simp [renderNext]
  | fft c left =>
    have hleft := hfft c left hr
    simp [renderFft]
    omega

/-! #### All turns -/

/-- A turn moves neither PREPARED nor the active configuration (R45, R60). -/
theorem turn_configuration (a : Agent) (s : State) :
    (turn a s).prepared = s.prepared ∧ (turn a s).actFftSize = s.actFftSize
      ∧ (turn a s).actFrameSize = s.actFrameSize ∧ (turn a s).actBlkMax = s.actBlkMax := by
  cases a with
  | audio => simp only [turn]; rw [audioTurn_frame]; exact ⟨rfl, rfl, rfl, rfl⟩
  | render => simp only [turn]; rw [renderTurn_frame]; exact ⟨rfl, rfl, rfl, rfl⟩
  | timer => simp only [turn]; rw [timerTurn_frame]; exact ⟨rfl, rfl, rfl, rfl⟩
  | syncW c v => simp only [turn]; rw [syncWTurn_frame]; simp
  | syncR c v => simp only [turn]; rw [syncRTurn_frame]; simp

/-- Only AUDIO's turn moves a staging index (R241). -/
theorem turn_sidx_of_other {a : Agent} (h : a ≠ .audio) (s : State) (d : Chan) :
    ((turn a s).ch d).sidx = (s.ch d).sidx := by
  cases a with
  | audio => exact absurd rfl h
  | render => simp only [turn]; rw [renderTurn_channel]
  | timer => simp only [turn]; rw [timerTurn_frame]; cases d <;> rfl
  | syncW c v => simp only [turn]; rw [syncWTurn_frame]; cases c <;> cases d <;> rfl
  | syncR c v => simp only [turn]; rw [syncRTurn_frame]; cases c <;> cases d <;> rfl

/-- A turn keeps the sequencers in range. -/
theorem turn_inRange {s : State} (h : s.SequencersInRange) (a : Agent) : (turn a s).SequencersInRange := by
  by_cases ha : a = .audio
  · exact ha ▸ audioTurn_inRange h
  · by_cases hr : a = .render
    · exact hr ▸ renderTurn_inRange h
    · obtain ⟨-, -, -, hblk⟩ := turn_configuration a s
      rw [sequencersInRange_iff] at h ⊢
      rwa [(turn_astate_of_other ha s).1, (turn_rstate_of_other hr s).1, hblk]

/-- A turn keeps the staging indices below the frame size. -/
theorem turn_staging {s : State} (h : ∀ c, (s.ch c).sidx.toNat < s.actFrameSize.toNat)
    (hframe : s.actFrameSize.toNat < 2 ^ 14) (a : Agent) (c : Chan) :
    ((turn a s).ch c).sidx.toNat < s.actFrameSize.toNat := by
  by_cases ha : a = .audio
  · exact ha ▸ audioTurn_sidx h hframe c
  · rw [turn_sidx_of_other ha]
    exact h c

/-- In a block that is not prepared no engine starts and no tick is requested (R60, R271, R318). -/
theorem turn_idle_of_unprepared {s : State} (hp : s.prepared = false)
    (idle : s.astate = .idle ∧ s.rstate = .idle ∧ s.tickReq = false) (a : Agent) :
    (turn a s).astate = .idle ∧ (turn a s).rstate = .idle ∧ (turn a s).tickReq = false := by
  obtain ⟨ha, hr, hq⟩ := idle
  cases a with
  | audio => rw [turn_without_step (by simp [State.enabled, State.audioEnabled, ha])]; exact ⟨ha, hr, hq⟩
  | render =>
    rw [turn_without_step (by simp [State.enabled, State.renderEnabled, State.startEnabled, hr, hq])]
    exact ⟨ha, hr, hq⟩
  | timer =>
    simp only [turn, timerTurn, timerFire]
    split
    · split
      · exact ⟨ha, hr, by simp [hq, hp]⟩
      · exact ⟨ha, hr, hq⟩
    · exact ⟨ha, hr, hq⟩
  | syncW c v => simp only [turn]; rw [syncWTurn_frame]; simp [ha, hr, hq]
  | syncR c v => simp only [turn]; rw [syncRTurn_frame]; simp [ha, hr, hq]

/-- R136: a legal frame size fits the staging index. -/
theorem State.ActiveConfigLegal.frame_lt {s : State} (h : s.ActiveConfigLegal) : s.actFrameSize.toNat < 2 ^ 14 := by
  obtain ⟨hfft, -, hfit, -⟩ := h
  rcases hfft with hfft | hfft | hfft <;> rw [hfft] at hfit <;> exact Nat.lt_of_le_of_lt hfit (by decide)

theorem turn_controlLegal (a : Agent) (s : State) (h : s.ControlLegal) : (turn a s).ControlLegal := by
  obtain ⟨hrange, hunprep, hprep⟩ := h
  obtain ⟨hsame, hfft, hframe, hblk⟩ := turn_configuration a s
  cases hp : s.prepared with
  | false => exact controlLegal_of_unprepared (hsame.trans hp) (turn_idle_of_unprepared hp (hunprep hp) a)
  | true =>
    have hconfig := (hprep hp).1
    refine controlLegal_of_prepared (hsame.trans hp) (turn_inRange hrange a) ?_ fun c => ?_
    · simpa only [State.ActiveConfigLegal, hfft, hframe, hblk] using hconfig
    · rw [hframe]
      exact turn_staging (State.ControlLegal.staging ⟨hrange, hunprep, hprep⟩ hp) hconfig.frame_lt a c

theorem reset_controlLegal : State.reset.ControlLegal := controlLegal_of_unprepared rfl ⟨rfl, rfl, rfl⟩

/-- Settles O57: a block that is not prepared stays at rest but for PREPARE, which makes the active configuration legal,
and in a prepared block every sequencer moves inside its range and a full staging frame returns its index to 0. -/
theorem stepKeepsControlLegal : Obligations.StepKeepsControlLegal := fun _ _ hs h =>
  invariant_of_effects (P := State.ControlLegal) (fun _ _ _ h => h) (fun _ _ h he => he.controlLegal h)
    turn_controlLegal (fun _ => reset_controlLegal) hs h

end Sys2Proof.Machine
end

section
/-! PROOFS. What holds after reset (spec 10_state.md R32, R63; 70_reset_and_hazards.md R340): the values the host reads,
and the invariants. -/

namespace Sys2Proof.Machine

/-- Settles O7: every register word is evaluated on the reset state, every bank holds one set throughout. -/
theorem resetValues : Obligations.ResetValues := by
  refine ⟨by decide, fun b => ⟨?_, ?_, ?_, ?_⟩, rfl, rfl, rfl, fun s rest hin => step_reset hin⟩
  · exact Vector.getElem_replicate _
  · exact Vector.getElem_replicate _
  · exact Vector.getElem_replicate _
  · exact Vector.getElem_replicate _

theorem reset_memoryCanonical : State.reset.MemoryCanonical :=
  ⟨Ram.unwritten_wf, Ram.unwritten_wf, ⟨Ram.unwritten_wf, Ram.unwritten_wf, Ram.unwritten_wf⟩,
    ⟨Ram.unwritten_wf, Ram.unwritten_wf, Ram.unwritten_wf⟩⟩

/-- A FIFO whose pointers and views are all 0 is empty, whoever looks (R242, R243, R244). -/
theorem reset_fifosBounded : State.reset.FifosBounded := by
  unfold State.FifosBounded Channel.occupancyBounded
  decide

/-- Settles O58: nothing is written, both FIFOs are empty, both engines are at rest and PREPARED is 0. -/
theorem resetMeetsInvariants : Obligations.ResetMeetsInvariants :=
  ⟨reset_memoryCanonical, reset_registersLegal, reset_fifosBounded, reset_controlLegal⟩

end Sys2Proof.Machine
end

section
/-! PROOFS. The event bits and the parameter-change flag over a step (spec 10_state.md R37, R42; 60_exceptions.md R311):
what an operation of HOST and a turn keep, and which operation a step presents. -/

namespace Sys2Proof.Machine

/-! ### The operation a step presents -/

theorem fetched_of_decode {op : HostOp} {i : Instr} (h : decode op = .ok i) : fetched op = i := by
  cases op with
  | cmd v =>
    have hv : decodeCommand v = .ok i := h
    simp [fetched, hv]
  | bus desc strb data => exact Except.ok.inj h

/-- What is performed is what was decoded, or the REG_WRITE to CMD of a word that is no command (R113, R118). -/
theorem fetched_cases (op : HostOp) :
    decode op = .ok (fetched op)
      ∨ ∃ v e, decodeCommand v = .error e ∧ fetched op = .regWrite cmdAddr 0xF#4 v := by
  cases op with
  | cmd v =>
    cases hv : decodeCommand v with
    | ok i => exact .inl (by simp [decode, fetched, hv])
    | error e => exact .inr ⟨v, e, hv, by simp [fetched, hv]⟩
  | bus desc strb data => exact .inl rfl

/-- A word that is no command is performed as a REG_WRITE to CMD, so any other operation was decoded. -/
theorem decode_of_fetched {op : HostOp} {i : Instr} (h : fetched op = i)
    (hne : ∀ v e, decodeCommand v = .error e → i ≠ .regWrite cmdAddr 0xF#4 v) : decode op = .ok i := by
  rcases fetched_cases op with hd | ⟨v, e, hv, hf⟩
  · rw [hd, h]
  · exact absurd (h.symm.trans hf) (hne v e hv)

/-! ### Event bits -/

/-- Every event bit set before is set after (R311). -/
def KeepsEvents (s t : State) : Prop := ∀ e, s.irqStatus.getLsbD e = true → t.irqStatus.getLsbD e = true

theorem KeepsEvents.of_eq {s t : State} (h : t.irqStatus = s.irqStatus) : KeepsEvents s t := fun _ he => h ▸ he

theorem KeepsEvents.trans {s t u : State} (h : KeepsEvents s t) (h' : KeepsEvents t u) : KeepsEvents s u :=
  fun e he => h' e (h e he)

theorem keepsEvents_raise (s : State) (e : IrqEvent) : KeepsEvents s (s.raise e) := fun _ he => setBit_sticky _ he

theorem keepsEvents_processEffect (s : State) (n : Nat) : KeepsEvents s (processEffect s n) := by
  intro e he
  rw [processEffect_eq]
  dsimp only
  split <;> simp [he]

theorem writeReg_irqStatus_of_other {r : CtrlReg} (h : r ≠ .irqStatus) (s : State) (v : Word) :
    (s.writeReg r v).irqStatus = s.irqStatus := by
  cases r with
  | irqStatus => exact absurd rfl h
  | dbFloor => simp only [State.writeReg]; split <;> rfl
  | _ => rfl

theorem writeRegion_irqStatus_of_other {r : Region} (h : r ≠ .ctrl .irqStatus) (s : State) (v : Word) :
    (s.writeRegion r v).irqStatus = s.irqStatus := by
  cases r with
  | ctrl r => exact writeReg_irqStatus_of_other (fun hr => h (hr ▸ rfl)) s v
  | _ => rfl

/-- W1C: a bit of IRQ_STATUS is cleared where the data has a 1 (R37). -/
theorem writeRegion_irqStatus_getLsbD (s : State) (v : Word) {e : Nat} (h : s.irqStatus.getLsbD e = true) :
    (s.writeRegion (.ctrl .irqStatus) v).irqStatus.getLsbD e = !v.getLsbD e := by
  have he : e < 6 := BitVec.lt_of_getLsbD h
  simp [State.writeRegion, State.writeReg, dataField, h, he]

/-- A command keeps the event bits: it raises an event, or leaves IRQ_STATUS (R302). -/
theorem command_keepsEvents {i : Instr} (hr : ∀ a, i ≠ .regRead a) (hw : ∀ a strb v, i ≠ .regWrite a strb v)
    {s t : State} (h : exec i s = .next t) : KeepsEvents s t := by
  have herror : ∀ code, KeepsEvents s (s.cmdError code) := fun _ => keepsEvents_raise s .cmdErr
  cases i with
  | nop => cases h; exact .of_eq rfl
  | prepare =>
    simp only [exec, execPrepare] at h
    split at h
    · cases h; exact herror _
    · split at h <;> cases h
      · exact herror _
      · exact .of_eq rfl
  | release =>
    simp only [exec, execRelease] at h
    split at h <;> cases h
    · exact herror _
    · exact .of_eq rfl
  | process n =>
    simp only [exec, execProcess] at h
    split at h
    · cases h; exact herror _
    · split at h
      · cases h; exact herror _
      · split at h <;> cases h
        · exact herror _
        · exact keepsEvents_processEffect s _
  | setSlope cut k => cases h; cases cut <;> exact .of_eq rfl
  | tick =>
    simp only [exec, execTick] at h
    split at h <;> cases h
    · exact herror _
    · exact .of_eq rfl
  | clrErr => cases h; exact .of_eq rfl
  | setByp stage w =>
    simp only [exec, execSetByp] at h
    split at h <;> cases h
    · exact herror _
    · exact .of_eq rfl
  | setSubByp cut idx w => cases h; cases cut <;> exact .of_eq rfl
  | regRead a => exact absurd rfl (hr a)
  | regWrite a strb v => exact absurd rfl (hw a strb v)

/-- R113, R132: a word written to CMD is ILLEGAL, or executes the command it decodes to. -/
theorem executeCommandWord_cases (v : Word) (s : State) :
    executeCommandWord v s = .next (s.cmdError .illegal)
      ∨ ∃ i, decodeCommand v = .ok i ∧ (∀ a, i ≠ .regRead a) ∧ (∀ a strb w, i ≠ .regWrite a strb w)
          ∧ executeCommandWord v s = exec i s := by
  unfold executeCommandWord
  cases decodeCommand v with
  | error e => exact .inl rfl
  | ok i =>
    cases i with
    | regRead a => exact .inl rfl
    | regWrite a strb w => exact .inl rfl
    | _ => exact .inr ⟨_, rfl, by simp, by simp, rfl⟩

theorem executeCommandWord_keepsEvents {v : Word} {s t : State} (h : executeCommandWord v s = .next t) :
    KeepsEvents s t := by
  rcases executeCommandWord_cases v s with hill | ⟨i, -, hr, hw, hi⟩
  · cases hill.symm.trans h
    exact keepsEvents_raise s .cmdErr
  · exact command_keepsEvents hr hw (hi.symm.trans h)

theorem regRead_keepsEvents {a : BusAddr} {s t : State} (h : exec (.regRead a) s = .next t) : KeepsEvents s t := by
  simp only [exec, execRegRead] at h
  split at h <;> cases h
  · exact keepsEvents_raise s .busErr
  · unfold readSideEffect
    split <;> exact .of_eq rfl

/-- A REG_WRITE keeps the event bits, or is the W1C write of IRQ_STATUS (R37, R131). -/
theorem regWrite_events {a : BusAddr} {strb : BitVec 4} {v : Word} {s t : State}
    (h : exec (.regWrite a strb v) s = .next t) :
    KeepsEvents s t ∨ (a = 0x010#20 ∧ strb = 0xF#4 ∧ t = (s.writeRegion (.ctrl .irqStatus) v).writeDone) := by
  simp only [exec, execRegWrite] at h
  split at h
  · cases h; exact .inl (keepsEvents_raise s .busErr)
  · rename_i hok
    obtain ⟨haligned, hstrb, -⟩ := (writeFailure_eq_none s a strb).mp hok
    split at h
    · exact .inl (executeCommandWord_keepsEvents h)
    · cases h
      by_cases hr : region a = .ctrl .irqStatus
      · exact .inr ⟨(region_ctrl_iff haligned _).mp hr, hstrb, by rw [hr]⟩
      · exact .inl (.of_eq (writeRegion_irqStatus_of_other hr s v))

/-- R37, R311: an operation of HOST keeps the event bits but for a REG_WRITE of IRQ_STATUS, which clears those it
names. -/
theorem exec_clears_event {i : Instr} {s t : State} (h : exec i s = .next t) {e : Nat}
    (hs : s.irqStatus.getLsbD e = true) (ht : t.irqStatus.getLsbD e = false) :
    ∃ v, i = .regWrite 0x010#20 0xF#4 v ∧ v.getLsbD e = true := by
  have hlost : ¬KeepsEvents s t := fun hk => by simp [hk e hs] at ht
  cases i with
  | regRead a => exact absurd (regRead_keepsEvents h) hlost
  | regWrite a strb v =>
    obtain ⟨rfl, rfl, rfl⟩ := (regWrite_events h).resolve_left hlost
    have hbit := (writeRegion_irqStatus_getLsbD s v hs).symm.trans ht
    exact ⟨v, rfl, by simpa using hbit⟩
  | _ => exact absurd (command_keepsEvents (by simp) (by simp) h) hlost

/-! #### Turns -/

theorem fifoTee_keepsEvents (s : State) (c : Chan) (y : Word) : KeepsEvents s (fifoTee s c y) := by
  have hstage : KeepsEvents s (stageSample s c y) := .of_eq (by rw [stageSample_eq, State.setCh_irqStatus])
  unfold fifoTee
  dsimp only
  split
  · refine hstage.trans ?_
    unfold pushFrame
    dsimp only
    split
    · exact .of_eq (State.setCh_irqStatus _ _ _)
    · exact KeepsEvents.trans (.of_eq (State.setCh_irqStatus _ _ _)) (keepsEvents_raise _ _)
  · exact hstage

theorem sampleChannel_keepsEvents (s : State) (c : Chan) (j : Nat) : KeepsEvents s (sampleChannel s c j) := by
  rw [sampleChannel_eq]
  refine KeepsEvents.trans (.of_eq ?_) (fifoTee_keepsEvents _ _ _)
  rw [State.setBufWord_irqStatus, chain_frame, State.setCh_irqStatus]

theorem audioTurn_keepsEvents (s : State) : KeepsEvents s (audioTurn s) := by
  unfold audioTurn
  split
  · exact .of_eq rfl
  · rename_i j n _
    split
    · have h := (sampleChannel_keepsEvents s .L j).trans (sampleChannel_keepsEvents _ .R j)
      rw [audioSample_eq]
      exact h
    · split
      · exact keepsEvents_raise s .blkDone
      · exact .of_eq rfl

theorem renderTurn_keepsEvents (s : State) : KeepsEvents s (renderTurn s) := by
  unfold renderTurn
  split
  · split <;> exact .of_eq rfl
  · rename_i c left _
    split
    · rename_i h
      rw [renderPull_eq s c left h.2]
      exact .of_eq (State.setCh_irqStatus _ _ _)
    · cases c <;> exact .of_eq rfl
  · rename_i c left _
    cases c <;> exact keepsEvents_raise s .specNew

/-- R311: no turn clears an event bit. -/
theorem turn_keepsEvents (a : Agent) (s : State) : KeepsEvents s (turn a s) := by
  cases a with
  | audio => exact audioTurn_keepsEvents s
  | render => exact renderTurn_keepsEvents s
  | timer => simp only [turn]; rw [timerTurn_frame]; exact .of_eq rfl
  | syncW c v => simp only [turn]; rw [syncWTurn_frame]; exact .of_eq (State.setCh_irqStatus _ _ _)
  | syncR c v => simp only [turn]; rw [syncRTurn_frame]; exact .of_eq (State.setCh_irqStatus _ _ _)

/-- Settles O60: only the W1C write of IRQ_STATUS and the reset input clear an event bit. -/
theorem eventBitsSticky : Obligations.EventBitsSticky := by
  intro s t e hs h ht
  cases step_next h with
  | host op rest hin t run =>
    obtain ⟨v, hi, hv⟩ := exec_clears_event run hs ht
    refine .inr ⟨op, rest, v, hin, decode_of_fetched hi fun w _ _ hne => ?_, hv⟩
    injection hne with haddr
    exact absurd haddr (by decide)
  | agent a rest hin => exact Bool.noConfusion ((turn_keepsEvents a { s with inputs := rest } e hs).symm.trans ht)
  | reset rest hin => exact .inl ⟨rest, hin⟩
  | free hin => exact Bool.noConfusion ((turn_keepsEvents _ { s with clock := s.clock + 1 } e hs).symm.trans ht)

/-! ### Parameter changes -/

/-- A word that is no command is no parameter write (R42, R113). -/
theorem not_writesParameter_of_error {v : Word} {e : DecodeReject} (h : decodeCommand v = .error e) :
    ¬WritesParameter (.regWrite cmdAddr 0xF#4 v) := by
  rintro (hset | ⟨a, strb, w, hw, -, hcase⟩)
  · cases hset
  · cases hw
    rcases hcase with ha | ha | ha | ⟨-, hlow, -⟩ | ⟨-, i, hi, -⟩
    · exact absurd ha (by decide)
    · exact absurd ha (by decide)
    · exact absurd ha (by decide)
    · exact absurd hlow (by decide)
    · cases h.symm.trans hi

/-- A parameter write that is performed was decoded. -/
theorem decode_of_writesParameter {op : HostOp} (h : WritesParameter (fetched op)) :
    decode op = .ok (fetched op) :=
  decode_of_fetched rfl fun _ _ he hf => not_writesParameter_of_error he (hf ▸ h)

theorem decode_regRead_iff (op : HostOp) (a : BusAddr) : decode op = .ok (.regRead a) ↔ fetched op = .regRead a :=
  ⟨fetched_of_decode, fun h => decode_of_fetched h fun _ _ _ he => by cases he⟩

/-- What a step does to PCHG and the parameters, by its cause (R42). -/
inductive ParameterStep (s t : State) : Prop where
  | write (op : HostOp) (rest : List Input) (i : Instr) (hin : s.inputs = .bus op :: rest) (hd : decode op = .ok i)
      (hw : WritesParameter i) (set : t.pchg = true)
  | read (op : HostOp) (rest : List Input) (hin : s.inputs = .bus op :: rest)
      (hd : decode op = .ok (.regRead 0x01C#20)) (clear : t.pchg = false)
      (same : SameParameters { s with pchg := false } t)
  | reset (rest : List Input) (hin : s.inputs = .reset :: rest) (clear : t.pchg = false)
  | other (notWrite : ∀ op rest i, s.inputs = .bus op :: rest → decode op = .ok i → ¬WritesParameter i)
      (notRead : ∀ op rest, s.inputs = .bus op :: rest → decode op ≠ .ok (.regRead 0x01C#20))
      (notReset : ∀ rest, s.inputs ≠ .reset :: rest) (same : SameParameters s t)

theorem parameterStep_of_agent {s t : State} (hbus : ∀ op rest, s.inputs ≠ .bus op :: rest)
    (hreset : ∀ rest, s.inputs ≠ .reset :: rest) (same : SameParameters s t) : ParameterStep s t :=
  .other (fun op rest _ hin => absurd hin (hbus op rest)) (fun op rest hin => absurd hin (hbus op rest)) hreset same

theorem parameterStep_of_step {s t : State} (h : step s = .next t) : ParameterStep s t := by
  cases step_next h with
  | host op rest hin t run =>
    obtain ⟨hwrite, hread, hother⟩ := exec_parameters run
    by_cases hw : WritesParameter (fetched op)
    · exact .write op rest _ hin (decode_of_writesParameter hw) hw (hwrite hw)
    by_cases hr : fetched op = .regRead 0x01C#20
    · exact .read op rest hin ((decode_regRead_iff op _).mpr hr) (hread hr).1 (hread hr).2
    refine .other (fun op' rest' i hin' hd hi => ?_) (fun op' rest' hin' hd => ?_) (fun rest' hin' => ?_) (hother hw hr)
    · cases hin.symm.trans hin'
      exact hw (fetched_of_decode hd ▸ hi)
    · cases hin.symm.trans hin'
      exact hr ((decode_regRead_iff op _).mp hd)
    · cases hin.symm.trans hin'
  | agent a rest hin =>
    exact parameterStep_of_agent (by simp [hin]) (by simp [hin]) (turn_parameters a { s with inputs := rest })
  | reset rest hin => exact .reset rest hin rfl
  | free hin =>
    exact parameterStep_of_agent (by simp [hin]) (by simp [hin])
      (turn_parameters s.scheduled { s with clock := s.clock + 1 })

/-- A read of PARAM_CHG is no parameter write. -/
theorem not_writesParameter_regRead (a : BusAddr) : ¬WritesParameter (.regRead a) := by
  rintro (h | ⟨_, _, _, h, -⟩) <;> cases h

/-- Settles O59: each cause of a step settles each of the four clauses. -/
theorem parameterChangeIsFlagged : Obligations.ParameterChangeIsFlagged := by
  intro s t h
  cases parameterStep_of_step h with
  | write op rest i hin hd hw set =>
    refine ⟨fun _ _ _ _ _ _ => set, fun _ _ => ⟨op, rest, i, hin, hd, hw⟩, fun _ => ?_, fun _ ht => ?_⟩
    · refine ⟨fun ht => Bool.noConfusion (set.symm.trans ht), ?_⟩
      rintro (⟨rest', hin'⟩ | ⟨op', rest', hin', hd'⟩)
      · cases hin.symm.trans hin'
      · cases hin.symm.trans hin'
        cases hd.symm.trans hd'
        exact absurd hw (not_writesParameter_regRead _)
    · exact Bool.noConfusion (set.symm.trans ht)
  | read op rest hin hd clear same =>
    refine ⟨fun op' rest' i hin' hi hw => ?_, fun _ ht => Bool.noConfusion (clear.symm.trans ht),
      fun _ => ⟨fun _ => .inr ⟨op, rest, hin, hd⟩, fun _ => clear⟩, fun _ _ => same.2⟩
    cases hin.symm.trans hin'
    cases hd.symm.trans hi
    exact absurd hw (not_writesParameter_regRead _)
  | reset rest hin clear =>
    refine ⟨fun op' rest' i hin' => ?_, fun _ ht => Bool.noConfusion (clear.symm.trans ht),
      fun _ => ⟨fun _ => .inl ⟨rest, hin⟩, fun _ => clear⟩, fun hno => absurd hin (hno rest)⟩
    cases hin.symm.trans hin'
  | other notWrite notRead notReset same =>
    obtain ⟨hpchg, hkept⟩ := same
    refine ⟨fun op rest i hin hi hw => absurd hw (notWrite op rest i hin hi), fun hs ht => ?_,
      fun hs => ⟨fun ht => ?_, ?_⟩, fun _ _ => hkept⟩
    · exact Bool.noConfusion (hs.symm.trans (hpchg.symm.trans ht))
    · exact Bool.noConfusion (hs.symm.trans (hpchg.symm.trans ht))
    · rintro (⟨rest, hin⟩ | ⟨op, rest, hin, hd⟩)
      · exact absurd hin (notReset rest)
      · exact absurd hd (notRead op rest hin)

end Sys2Proof.Machine
end

section
/-! PROOFS. REG_WRITE of the control and shadow registers, the shadow bank and the block buffers (spec 10_state.md
R37–R50, R55; 40_commands.md R131): where an address lands, and what the write stores there. -/

namespace Sys2Proof.Machine

/-! ### Registers -/

theorem isFinite_eq_false_iff (v : Word) : Binary32.isFinite v = false ↔ v.extractLsb' 23 8 = 0xFF#8 := by
  rw [← BitVec.toNat_inj]
  simp [Binary32.isFinite, Binary32.expField]

/-- R48: a non-finite DB_FLOOR is not stored. -/
theorem writeReg_dbFloor (s : State) (v : Word) :
    s.writeReg .dbFloor v = { s with dbFloor := if v.extractLsb' 23 8 = 0xFF#8 then s.dbFloor else v } := by
  simp only [State.writeReg, ← isFinite_eq_false_iff]
  cases Binary32.isFinite v <;> rfl

/-- Settles O23: each offset is a writable register's, and the store of each is what the rule says. -/
theorem writeControlRegisters : Obligations.WriteControlRegisters := by
  intro v s
  refine ⟨exec_regWrite_ctrl (r := .irqStatus) (.inr rfl) rfl v s,
    exec_regWrite_ctrl (r := .irqEnable) (.inl rfl) rfl v s,
    exec_regWrite_ctrl (r := .ctrl) (.inl rfl) rfl v s,
    exec_regWrite_ctrl (r := .sampleRate) (.inl rfl) rfl v s,
    exec_regWrite_ctrl (r := .blkMax) (.inl rfl) rfl v s,
    exec_regWrite_ctrl (r := .fftCfg) (.inl rfl) rfl v s,
    exec_regWrite_ctrl (r := .frameSize) (.inl rfl) rfl v s,
    ?_,
    exec_regWrite_ctrl (r := .tickPeriod) (.inl rfl) rfl v s⟩
  have h := exec_regWrite_ctrl (r := .dbFloor) (.inl rfl) rfl v s
  rw [writeReg_dbFloor] at h
  exact h

/-! ### The shadow bank -/

/-- R50, R81: coefficient k of shadow set b stands at 0x100 + 0x14 · b + 4 · k. -/
theorem region_shAddr (b : Fin 11) (k : Fin 5) : region (shAddr b k) = .shCoef b k := by
  have hb := b.isLt
  have hk := k.isLt
  have haddr : (shAddr b k).toNat = 0x100 + 0x14 * b.val + 4 * k.val := toNat_ofNat_addr (by omega)
  rw [region_shCoef (by omega), haddr]
  congr 1
  · apply Fin.ext
    show (0x100 + 0x14 * b.val + 4 * k.val - 0x100) / 0x14 % 11 = b.val
    omega
  · apply Fin.ext
    show (0x100 + 0x14 * b.val + 4 * k.val - 0x100) % 0x14 / 4 % 5 = k.val
    omega

theorem shAddr_aligned (b : Fin 11) (k : Fin 5) : (shAddr b k).toNat % 4 = 0 := by
  have haddr : (shAddr b k).toNat = 0x100 + 0x14 * b.val + 4 * k.val := toNat_ofNat_addr (by omega)
  omega

/-- R131: a full-strobe write of a shadow coefficient stores it. -/
theorem exec_regWrite_shCoef (b : Fin 11) (k : Fin 5) (v : Word) (s : State) :
    exec (.regWrite (shAddr b k) 0xF#4 v) s = .next (s.writeRegion (.shCoef b k) v).writeDone := by
  have hr := region_shAddr b k
  have hok : writeFailure s (shAddr b k) 0xF#4 = none := by
    simp [writeFailure_eq_none, hr, shAddr_aligned, Region.writeRefused, Region.busyRefused]
  rw [exec_regWrite_of_ok hok (by simp [hr]), hr]

/-- A bank with one coefficient written holds it there and every other one as before (R50). -/
theorem bank_get_set (bank : Vector Coefs 11) (b b' : Fin 11) (k k' : Fin 5) (v : Word) :
    ((bank.set b (bank[b].set k v))[b']).get k' = if b' = b ∧ k' = k then v else (bank[b']).get k' := by
  by_cases hb : b' = b
  · subst hb
    simp [Coefs.get_set]
  · have hval : b.val ≠ b'.val := fun h => hb (Fin.ext h.symm)
    simp [hb, hval]

/-- Settles O24: the shadow registers and the shadow bank take the data and set PCHG. -/
theorem writeShadowRegisters : Obligations.WriteShadowRegisters := fun v s =>
  ⟨exec_regWrite_ctrl (r := .bypass) (.inl rfl) rfl v s, exec_regWrite_ctrl (r := .lcCfg) (.inl rfl) rfl v s,
    exec_regWrite_ctrl (r := .hcCfg) (.inl rfl) rfl v s, fun b k =>
      ⟨_, exec_regWrite_shCoef b k v s, fun b' k' => bank_get_set s.shCoef b b' k k' v, rfl⟩⟩

/-! ### The block buffers -/

/-- R55, R81: word j of channel c's block buffer stands at BUF_c + 4 · j. -/
theorem region_bufBusAddr (c : Chan) {j : Nat} (hj : j < 8192) :
    region (bufBusAddr c j) = .buf c j ∧ (bufBusAddr c j).toNat % 4 = 0 := by
  cases c with
  | L =>
    have haddr : (bufBusAddr .L j).toNat = 0x10000 + 4 * j :=
      toNat_ofNat_addr (by simp only [bufAddr, chanIndex]; omega)
    refine ⟨?_, by omega⟩
    rw [region_bufL (by omega), haddr]
    congr 1
    omega
  | R =>
    have haddr : (bufBusAddr .R j).toNat = 0x18000 + 4 * j :=
      toNat_ofNat_addr (by simp only [bufAddr, chanIndex]; omega)
    refine ⟨?_, by omega⟩
    rw [region_bufR (by omega), haddr]
    congr 1
    omega

/-- R131: while AUDIO is idle a full-strobe write of a buffer word stores it. -/
theorem exec_regWrite_buf (c : Chan) {j : Nat} (hj : j < 8192) (v : Word) {s : State} (idle : s.astate = .idle) :
    exec (.regWrite (bufBusAddr c j) 0xF#4 v) s = .next (s.setBufWord c j v).writeDone := by
  obtain ⟨hr, haligned⟩ := region_bufBusAddr c hj
  have hok : writeFailure s (bufBusAddr c j) 0xF#4 = none := by
    simp [writeFailure_eq_none, hr, haligned, idle, Region.writeRefused]
  rw [exec_regWrite_of_ok hok (by simp [hr]), hr]
  rfl

/-- Settles O25: the write lands in the buffer word it names, and a word write touches only its four bytes. -/
theorem writeBlockBuffer : Obligations.WriteBlockBuffer := fun c j v s hj idle =>
  ⟨_, exec_regWrite_buf c hj v idle, bufWord_setBufWord_same s c j v,
    fun _ ha => ramByte_setBufWord_outside s v ha, rfl⟩

end Sys2Proof.Machine
end

section
/-! PROOFS. REG_READ: what every location holds, and the bits of STATUS and of the FIFO registers (spec 10_state.md
R33–R58; 20_memory.md R85, R86; 40_commands.md R130; 60_exceptions.md R300, R310). -/

namespace Sys2Proof.Machine

/-! ### STATUS -/

/-- R36: the bits of STATUS but the interrupt line. -/
theorem statusWord_getLsbD (s : State) {i : Nat} (hi : i < 32) (hline : i ≠ 16) : s.statusWord.getLsbD i =
    (if i = 0 then s.busyA else if i = 1 then s.busyR else if i = 2 then s.prepared else if i = 3 then s.tickReq
     else if 8 ≤ i ∧ i < 12 then s.lastErr.number.getLsbD (i - 8) else false) := by
  have hcode : (decide (8 ≤ i) && s.lastErr.number.getLsbD (i - 8))
      = if 8 ≤ i ∧ i < 12 then s.lastErr.number.getLsbD (i - 8) else false := by
    by_cases hhigh : i < 12
    · by_cases hlow : 8 ≤ i <;> simp [hlow, hhigh]
    · simp [hhigh, BitVec.getLsbD_of_ge s.lastErr.number (i - 8) (by omega)]
  simp only [State.statusWord, BitVec.getLsbD_or, getLsbD_flagAt, getLsbD_fieldAt, hi, hline, hcode, decide_true,
    decide_false, Bool.true_and, Bool.false_and, Bool.or_false]
  by_cases h0 : i = 0
  · simp [h0]
  by_cases h1 : i = 1
  · simp [h1]
  by_cases h2 : i = 2
  · simp [h2]
  by_cases h3 : i = 3
  · simp [h3]
  · simp [h0, h1, h2, h3]

/-- R36: bit 16 of STATUS is the interrupt line. -/
theorem statusWord_line (s : State) : s.statusWord.getLsbD 16 = s.irqLine := by
  simp only [State.statusWord, BitVec.getLsbD_or, getLsbD_flagAt, getLsbD_fieldAt]
  simp

/-- R310: the interrupt line is the OR of the enabled pending events. -/
theorem irqLine_iff (s : State) :
    s.irqLine = true ↔ ∃ e < 6, s.irqStatus.getLsbD e = true ∧ s.irqEnable.getLsbD e = true := by
  rw [State.irqLine, decide_eq_true_iff]
  constructor
  · intro hne
    by_contra hno
    refine hne (BitVec.eq_of_getLsbD_eq fun e he => ?_)
    rw [BitVec.getLsbD_and, show (0 : BitVec 6).getLsbD e = false from BitVec.getLsbD_zero, Bool.and_eq_false_iff]
    by_contra hboth
    simp only [not_or, Bool.not_eq_false] at hboth
    exact hno ⟨e, he, hboth⟩
  · rintro ⟨e, -, hs, hen⟩ hzero
    have hbit := congrArg (fun x => x.getLsbD e) hzero
    simp [hs, hen] at hbit

/-- R36, R300: bits 11..8 of STATUS are the number of the error code. -/
theorem statusWord_code (s : State) : s.statusWord.extractLsb' 8 4 = s.lastErr.number := by
  apply BitVec.eq_of_getLsbD_eq
  intro i hi
  rw [BitVec.getLsbD_extractLsb', statusWord_getLsbD s (by omega) (by omega)]
  simp [hi, show 8 + i ≠ 1 by omega, show 8 + i ≠ 2 by omega, show 8 + i ≠ 3 by omega, show 8 + i < 12 by omega]

/-- Settles O20: STATUS bit by bit, the line as the OR of the enabled events, the code by its number. -/
theorem statusShowsFlags : Obligations.StatusShowsFlags := by
  intro s
  refine ⟨?_, fun i hi hline => statusWord_getLsbD s hi hline, fun row hrow hcode => ?_⟩
  · rw [← irqLine_iff, ← statusWord_line]
    rfl
  · have hnumber : (s.readRegion (.ctrl .status)).extractLsb' 8 4 = row.1.number := hcode ▸ statusWord_code s
    rw [hnumber]
    clear hnumber hcode s
    revert row
    decide

/-! ### FIFO registers -/

/-- A pointer is below 60 and fits its 6 bits (R11, R16). -/
theorem ptrBits_toNat (p : Ptr) : (ptrBits p).toNat = p.val := by
  rw [ptrBits, BitVec.toNat_ofNat]
  omega

/-- R47: FIFO_c_PTR holds a pointer in each byte. -/
theorem ptrWord_toNat (x : Channel) : x.ptrWord.toNat
    = x.wptr.val + x.rptr.val * 2 ^ 8 + x.wview.val * 2 ^ 16 + x.rview.val * 2 ^ 24 := by
  have h0 : (fieldAt (ptrBits x.wptr) 0).toNat = x.wptr.val := by rw [fieldAt_zero_toNat (by omega), ptrBits_toNat]
  have h1 : (fieldAt (ptrBits x.wptr) 0 ||| fieldAt (ptrBits x.rptr) 8).toNat
      = x.wptr.val + x.rptr.val * 2 ^ 8 := by
    rw [or_fieldAt_toNat (by omega) _ (by omega), h0, ptrBits_toNat]
  have h2 : (fieldAt (ptrBits x.wptr) 0 ||| fieldAt (ptrBits x.rptr) 8 ||| fieldAt (ptrBits x.wview) 16).toNat
      = x.wptr.val + x.rptr.val * 2 ^ 8 + x.wview.val * 2 ^ 16 := by
    rw [or_fieldAt_toNat (by omega) _ (by omega), h1, ptrBits_toNat]
  rw [Channel.ptrWord, or_fieldAt_toNat (by omega) _ (by omega), h2, ptrBits_toNat]

/-- Settles O21: each byte of FIFO_c_PTR is a pointer below 60, and the other two registers are one field at bit 0. -/
theorem fifoStatusRegisters : Obligations.FifoStatusRegisters := by
  intro s c
  have hptr := ptrWord_toNat (s.ch c)
  have hread : s.readRegion (.ctrl (.fifoPtr c)) = (s.ch c).ptrWord := rfl
  simp only [hread, BitVec.extractLsb'_toNat, Nat.shiftRight_eq_div_pow, hptr]
  refine ⟨by omega, by omega, by omega, by omega, fieldAt_zero_toNat (by omega) (s.ch c).sidx,
    fieldAt_zero_toNat (by omega) (s.ch c).dropCnt, ?_⟩
  cases c <;> decide

/-! ### The transaction -/

/-- R130: at an aligned mapped address that is not busy a read raises no error. -/
theorem readFailure_of_legal {s : State} {a : BusAddr} (haligned : a.toNat % 4 = 0) (hmapped : region a ≠ .unmapped)
    (hidle : ((0x300 ≤ a.toNat ∧ a.toNat < 0x3B0) ∨ (0x10000 ≤ a.toNat ∧ a.toNat < 0x20000)) → s.astate = .idle) :
    readFailure s a = none := by
  rw [readFailure_eq_none, busyRefused_iff]
  exact ⟨haligned, hmapped, hidle⟩

/-- R42, R86: a read of PARAM_CHG shows PCHG and clears it. -/
theorem exec_regRead_paramChg (s : State) :
    exec (.regRead 0x1C#20) s = .next { s with pchg := false, resp := .read (if s.pchg then 1 else 0) false } := by
  have hword : (if s.pchg then 1 else 0) = flagAt s.pchg 0 := by cases s.pchg <;> rfl
  rw [hword]
  rfl

/-- R130: any other read changes nothing but the bus outputs. -/
theorem exec_regRead_of_not_paramChg {s : State} {a : BusAddr} (hok : readFailure s a = none) (ha : a ≠ 0x1C#20) :
    exec (.regRead a) s = .next { s with resp := .read (s.readRegion (region a)) false } := by
  obtain ⟨haligned, -⟩ := (readFailure_eq_none s a).mp hok
  have hr : region a ≠ .ctrl .paramChg := fun h => ha ((region_ctrl_iff haligned .paramChg).mp h)
  rw [exec_regRead_of_ok hok, readSideEffect, if_neg hr]
  rfl

/-! ### Registers by their fields -/

/-- R39: CTRL by its fields. -/
theorem ctrlWord_eq_append (s : State) : s.ctrlWord
    = 0#26 ++ BitVec.ofBool (decide (s.win = .hann)) ++ BitVec.ofBool s.anEn ++ 0#2 ++ s.inCh := by
  have hwin : winBit s.win = decide (s.win = .hann) := by cases s.win <;> rfl
  have hword : s.ctrlWord = fieldAt s.inCh 0 ||| fieldAt (BitVec.ofBool s.anEn) 4
      ||| fieldAt (BitVec.ofBool (winBit s.win)) 5 := rfl
  have hlow := fieldAt_zero_toNat (by omega) s.inCh
  have hmid := or_fieldAt_toNat (lo := 4) (x := fieldAt s.inCh 0) (by omega) (BitVec.ofBool s.anEn) (by omega)
  rw [hword, ← hwin]
  apply BitVec.eq_of_toNat_eq
  rw [or_fieldAt_toNat (by omega) _ (by omega)]
  simp only [toNat_append_eq_add, BitVec.toNat_ofNat]
  omega

/-- R44: LC_CFG and HC_CFG by their fields. -/
theorem cutCfgWord_eq_append (x : CutCfg) : x.word = 0#24 ++ x.subByp ++ 0#2 ++ x.slope := by
  have hlow := fieldAt_zero_toNat (by omega) x.slope
  apply BitVec.eq_of_toNat_eq
  rw [CutCfg.word, or_fieldAt_toNat (by omega) _ (by omega)]
  simp only [toNat_append_eq_add, BitVec.toNat_ofNat]
  omega

/-- R53: ACT_BYPASS by its fields. -/
theorem actBypassWord_eq_append (s : State) :
    s.actBypassWord = 0#16 ++ s.actHcSub ++ s.actLcSub ++ 0#2 ++ s.actByp := by
  have hlow := fieldAt_zero_toNat (by omega) s.actByp
  have hmid := or_fieldAt_toNat (lo := 8) (x := fieldAt s.actByp 0) (by omega) s.actLcSub (by omega)
  apply BitVec.eq_of_toNat_eq
  rw [State.actBypassWord, or_fieldAt_toNat (by omega) _ (by omega)]
  simp only [toNat_append_eq_add, BitVec.toNat_ofNat]
  omega

/-! ### Buffers by their bytes -/

/-- R55, R85: a word of BUF with byte lane k at address + k. -/
theorem bufWord_eq_bytes (s : State) (c : Chan) {j : Nat} (hj : j < 8192) : s.bufWord c j
    = s.ramByte (bufAddr c j + 3) ++ s.ramByte (bufAddr c j + 2) ++ s.ramByte (bufAddr c j + 1)
        ++ s.ramByte (bufAddr c j) := by
  have hend : bufAddr c j + 3 < 0x20000 := by cases c <;> simp only [bufAddr, chanIndex] <;> omega
  simp only [State.ramByte]
  rw [if_pos hend, if_pos (by omega), if_pos (by omega), if_pos (by omega)]
  rfl

/-- R58, R85: a word of SPEC with byte lane k at address + k. -/
theorem specWord_eq_bytes (s : State) (c : Chan) (k : Nat) : s.specWord c k
    = s.ramByte (specAddr c k + 3) ++ s.ramByte (specAddr c k + 2) ++ s.ramByte (specAddr c k + 1)
        ++ s.ramByte (specAddr c k) := by
  have hstart : 0x20000 ≤ specAddr c k := by simp only [specAddr]; omega
  simp only [State.ramByte]
  rw [if_neg (by omega), if_neg (by omega), if_neg (by omega), if_neg (by omega)]
  rfl

/-- Settles O19: a read that raises no error returns the location's word, and each location's word is its fields. -/
theorem readReturnsLocation : Obligations.ReadReturnsLocation := by
  refine ⟨fun a s haligned hmapped hidle => ⟨?_, ?_⟩, fun s => ⟨?_, fun b => ?_, ?_, ?_⟩⟩
  · rintro rfl
    exact exec_regRead_paramChg s
  · exact exec_regRead_of_not_paramChg (readFailure_of_legal haligned hmapped hidle)
  · simp only [List.forall_mem_cons]
    exact ⟨rfl, rfl, rfl, fieldAt_zero_eq_append rfl _, fieldAt_zero_eq_append rfl _, ctrlWord_eq_append s, rfl,
      fieldAt_zero_eq_append rfl _, fieldAt_zero_eq_append rfl _, fieldAt_zero_eq_append rfl _,
      fieldAt_zero_eq_append rfl _, cutCfgWord_eq_append _, cutCfgWord_eq_append _, rfl, rfl, rfl, rfl, rfl, rfl, rfl,
      rfl, actBypassWord_eq_append s, by simp⟩
  · exact ⟨rfl, rfl, rfl, rfl, rfl, rfl⟩
  · simp only [List.forall_mem_cons]
    exact ⟨fun j hj => bufWord_eq_bytes s .L hj, fun j hj => bufWord_eq_bytes s .R hj, by simp⟩
  · simp only [List.forall_mem_cons]
    exact ⟨fun k _ => specWord_eq_bytes s .L k, fun k _ => specWord_eq_bytes s .R k, by simp⟩

end Sys2Proof.Machine
end

section
/-! PROOFS. The slots that a step writes (spec 43_channel_fifo.md R241, R244, R292): only the push of a full staging
frame writes slot words, into the slot of WPTR alone, which no unread frame holds while there is room for a push. -/

namespace Sys2Proof.Machine

/-! ### What a slot word rests on -/

/-- A slot word is read from the channel's slot RAM and, where nothing has written it, from the reset's number. -/
theorem slotWord_congr {s t : State} {c : Chan} (hepoch : t.epoch = s.epoch) (hslot : (t.ch c).slot = (s.ch c).slot)
    (k i : Nat) : t.slotWord c k i = s.slotWord c k i := by
  rw [State.slotWord, State.slotWord, hepoch, hslot]

theorem State.FifosBounded.channel {s : State} (h : s.FifosBounded) (c : Chan) : (s.ch c).occupancyBounded := by
  obtain ⟨hL, hR⟩ := h
  cases c with
  | L => exact hL
  | R => exact hR

/-- R241, R244: while fewer than 30 frames are unread, none of them stands in the slot of WPTR. -/
theorem slotOf_ne_of_unread {rptr wptr p : Ptr} (hp : (p - rptr).val < (wptr - rptr).val)
    (hroom : (wptr - rptr).val < Config.cap) : slotOf p ≠ slotOf wptr := by
  have := p.isLt
  have := rptr.isLt
  have := wptr.isLt
  simp only [ptr_sub_val, slotOf, Config.cap] at hp hroom ⊢
  omega

/-! ### AUDIO -/

section Audio

variable {s : State} {c : Chan} {k i : Nat} (hframe : s.actFrameSize.toNat ≤ 8192) (hi : i < 8192)
  (hk : (s.ch c).occW < Config.cap → k ≠ slotOf (s.ch c).wptr)
include hframe hi hk

/-- R241: a push leaves every word of every slot but the one WPTR names, and with no room it writes none. -/
theorem pushFrame_slotWord : (pushFrame s c).slotWord c k i = s.slotWord c k i := by
  unfold pushFrame
  dsimp only
  split
  · rename_i hroom
    have hne := hk hroom
    simp only [State.slotWord, State.setCh_epoch, State.setCh_ch_same]
    refine Ram.read_writeList_outside _ _ _ ?_
    simp only [State.stagedFrame, List.length_map, List.length_range, slotIndex]
    omega
  · exact slotWord_congr (by simp) (by simp) k i

/-- R241: staging a sample writes no slot word, so the tee writes at most the slot of WPTR. -/
theorem fifoTee_slotWord (y : Word) : (fifoTee s c y).slotWord c k i = s.slotWord c k i := by
  have hstage : (stageSample s c y).slotWord c k i = s.slotWord c k i :=
    slotWord_congr (by simp [stageSample_eq]) (by simp [stageSample_eq]) k i
  unfold fifoTee
  dsimp only
  split
  · rw [← hstage]
    refine pushFrame_slotWord (by simpa [stageSample_eq] using hframe) hi ?_
    simpa [stageSample_eq, Channel.occW] using hk
  · exact hstage

/-- R222, R241: one channel's part of AUDIO_SAMPLE writes at most the slot of WPTR. -/
theorem sampleChannel_slotWord (j : Nat) : (sampleChannel s c j).slotWord c k i = s.slotWord c k i := by
  rw [sampleChannel_eq, chain_frame]
  rw [fifoTee_slotWord (by simpa using hframe) hi (by simpa [Channel.occW] using hk)]
  exact slotWord_congr (by simp) (by simp) k i

/-- R222, R241: AUDIO_SAMPLE writes at most the slot of each channel's WPTR. -/
theorem audioSample_slotWord (j n : Nat) : (audioSample s j n).slotWord c k i = s.slotWord c k i := by
  have hepoch : (sampleChannel s .L j).epoch = s.epoch := by rw [sampleChannel_frame]; rfl
  cases c with
  | L =>
    rw [← sampleChannel_slotWord hframe hi hk j]
    exact slotWord_congr (by rw [audioSample_eq, hepoch]) (by rw [audioSample_eq]; rfl) k i
  | R =>
    have hsize : (sampleChannel s .L j).actFrameSize = s.actFrameSize := by rw [sampleChannel_frame]; rfl
    rw [← sampleChannel_chR s j] at hk
    calc (audioSample s j n).slotWord .R k i
      _ = (sampleChannel (sampleChannel s .L j) .R j).slotWord .R k i := slotWord_congr rfl rfl k i
      _ = (sampleChannel s .L j).slotWord .R k i := sampleChannel_slotWord (hsize ▸ hframe) hi hk j
      _ = s.slotWord .R k i := slotWord_congr hepoch (by rw [sampleChannel_chR]) k i

/-- R241: a turn of AUDIO writes at most the slot of each channel's WPTR. -/
theorem audioTurn_slotWord : (audioTurn s).slotWord c k i = s.slotWord c k i := by
  unfold audioTurn
  split
  · rfl
  · rename_i j n _
    split
    · exact audioSample_slotWord hframe hi hk j n
    · split
      · exact slotWord_congr rfl (by cases c <;> rfl) k i
      · rfl

end Audio

/-! ### The other causes of a step -/

/-- R292: only AUDIO's turn writes slot words. -/
theorem turn_slotWord_of_other {a : Agent} (h : a ≠ .audio) (s : State) (c : Chan) (k i : Nat) :
    (turn a s).slotWord c k i = s.slotWord c k i := by
  cases a with
  | audio => exact absurd rfl h
  | render =>
    exact slotWord_congr (by simp only [turn]; rw [renderTurn_frame]) (by simp only [turn]; rw [renderTurn_channel]) k i
  | timer => simp only [turn]; rw [timerTurn_frame]; exact slotWord_congr rfl (by cases c <;> rfl) k i
  | syncW d v =>
    simp only [turn]; rw [syncWTurn_frame]
    exact slotWord_congr (by simp) (by cases c <;> cases d <;> rfl) k i
  | syncR d v =>
    simp only [turn]; rw [syncRTurn_frame]
    exact slotWord_congr (by simp) (by cases c <;> cases d <;> rfl) k i

/-- No store of a location counts a reset. -/
theorem writeRegion_epoch (s : State) (r : Region) (v : Word) : (s.writeRegion r v).epoch = s.epoch := by
  cases r with
  | ctrl r =>
    cases r with
    | dbFloor => simp only [State.writeRegion, State.writeReg]; split <;> rfl
    | _ => rfl
  | _ => rfl

/-- No operation of HOST counts a reset. -/
theorem HostEffect.epoch {s t : State} (h : HostEffect s t) : t.epoch = s.epoch := by
  cases h with
  | process n _ _ _ => rw [processEffect_eq]; rfl
  | setCut cut x => simp
  | read a ok => unfold readSideEffect; split <;> rfl
  | write a v ok notCmd => exact writeRegion_epoch s _ v
  | _ => rfl

/-- R136: an operation of HOST writes no slot word; PREPARE empties the FIFOs and keeps their slots. -/
theorem HostEffect.slotWord {s t : State} (h : HostEffect s t) (c : Chan) (k i : Nat) :
    t.slotWord c k i = s.slotWord c k i := by
  refine slotWord_congr h.epoch ?_ k i
  rcases h.channels with hsame | ⟨-, hprepared⟩
  · rw [hsame]
  · rw [hprepared, Channel.prepared_slot]

/-! ### Unread frames -/

/-- R244: the occupancy AUDIO sees is never below the true one, so a push that finds room finds a slot without an unread
frame, and no turn changes one. -/
theorem turn_keeps_unread (a : Agent) {s : State} {c : Chan} {p : Ptr} (hbounded : (s.ch c).occupancyBounded)
    (hframe : s.actFrameSize.toNat ≤ 8192) (hp : (p - (s.ch c).rptr).val < (s.ch c).occ) {i : Nat} (hi : i < 8192) :
    (turn a s).slotWord c (slotOf p) i = s.slotWord c (slotOf p) i := by
  by_cases ha : a = .audio
  · subst ha
    obtain ⟨-, hocc, -⟩ := hbounded
    exact audioTurn_slotWord hframe hi fun hroom => slotOf_ne_of_unread hp (hocc.trans_lt hroom)
  · exact turn_slotWord_of_other ha s c _ i

/-- Settles O41: a step writes slot words only where AUDIO pushes a frame, and that slot holds no unread frame. -/
theorem unreadSlotsKept : Obligations.UnreadSlotsKept := by
  intro s t c p hs hframe h hreset hp i hi
  have hbounded := hs.channel c
  cases step_next h with
  | host op rest hin t run => exact (exec_next run).slotWord c (slotOf p) i
  | agent a rest hin => exact turn_keeps_unread (s := { s with inputs := rest }) a hbounded hframe hp hi
  | reset rest hin => exact absurd hin (hreset rest)
  | free hin => exact turn_keeps_unread (s := { s with clock := s.clock + 1 }) s.scheduled hbounded hframe hp hi

end Sys2Proof.Machine
end

section
/-! PROOFS. The address map (spec 20_memory.md R81, R82), row by row. -/

namespace Sys2Proof.Machine

/-- R32: every register stands at its offset. -/
theorem region_ctrlAddr (r : CtrlReg) : region (ctrlAddr r) = .ctrl r := by
  have haligned : (ctrlAddr r).toNat % 4 = 0 := by
    rw [ctrlAddr, BitVec.toNat_ofNat]
    omega
  exact (region_ctrl_iff haligned r).mpr rfl

/-- R52, R81: coefficient k of active set b stands at 0x200 + 0x14 · b + 4 · k. -/
theorem region_actAddr (b : Fin 11) (k : Fin 5) : region (actAddr b k) = .actCoef b k := by
  have hb := b.isLt
  have hk := k.isLt
  have haddr : (actAddr b k).toNat = 0x200 + 0x14 * b.val + 4 * k.val := toNat_ofNat_addr (by omega)
  have hset : (0x200 + 0x14 * b.val + 4 * k.val - 0x200) / 0x14 = b.val := by omega
  have hword : (0x200 + 0x14 * b.val + 4 * k.val - 0x200) % 0x14 / 4 = k.val := by omega
  rw [region_actCoef (by omega), haddr, hset, hword, Fin.ofNat_val_eq_self, Fin.ofNat_val_eq_self]

/-- An address bit is a binary digit of the address. -/
theorem addr_getLsbD (a : BusAddr) (i : Nat) : a.getLsbD i = decide (a.toNat / 2 ^ i % 2 = 1) := by
  rw [BitVec.getLsbD, Nat.testBit_eq_decide_div_mod_eq]

/-- R54, R81: state variable j of biquad b, channel c, stands at 0x300 + 0x10 · b + 8 · c + 4 · j. -/
theorem region_stAddr (b : Fin 11) (c : Chan) (second : Bool) : region (stAddr b c second) = .stateView b c second := by
  have hb := b.isLt
  have hc : chanIndex c ≤ 1 := by cases c <;> decide
  have hsecond := second.toNat_le
  have haddr : (stAddr b c second).toNat = 0x300 + 0x10 * b.val + 8 * chanIndex c + 4 * second.toNat :=
    toNat_ofNat_addr (by omega)
  have hset : (0x300 + 0x10 * b.val + 8 * chanIndex c + 4 * second.toNat - 0x300) / 0x10 = b.val := by omega
  have hchan : (0x300 + 0x10 * b.val + 8 * chanIndex c + 4 * second.toNat) / 2 ^ 3 % 2 = chanIndex c := by omega
  have hvar : (0x300 + 0x10 * b.val + 8 * chanIndex c + 4 * second.toNat) / 2 ^ 2 % 2 = second.toNat := by omega
  rw [region_stateView (by omega), addr_getLsbD, addr_getLsbD, haddr, hset, hchan, hvar, Fin.ofNat_val_eq_self]
  cases c <;> cases second <;> rfl

/-- R58, R81: word k of channel c's spectrum buffer stands at SPEC_c + 4 · k. -/
theorem region_specBusAddr (c : Chan) {k : Nat} (hk : k < 4096) : region (specBusAddr c k) = .spec c k := by
  cases c with
  | L =>
    have haddr : (specBusAddr .L k).toNat = 0x20000 + 4 * k :=
      toNat_ofNat_addr (by simp only [specAddr, chanIndex]; omega)
    rw [region_specL (by omega), haddr, show (0x20000 + 4 * k - 0x20000) / 4 = k by omega]
  | R =>
    have haddr : (specBusAddr .R k).toNat = 0x24000 + 4 * k :=
      toNat_ofNat_addr (by simp only [specAddr, chanIndex]; omega)
    rw [region_specR (by omega), haddr, show (0x24000 + 4 * k - 0x24000) / 4 = k by omega]

/-- R82: an address in a gap of the map names nothing. -/
theorem region_unmapped {a : BusAddr}
    (h : (0x78 ≤ a.toNat ∧ a.toNat ≤ 0xFF) ∨ (0x1DC ≤ a.toNat ∧ a.toNat ≤ 0x1FF)
      ∨ (0x2DC ≤ a.toNat ∧ a.toNat ≤ 0x2FF) ∨ (0x3B0 ≤ a.toNat ∧ a.toNat ≤ 0xFFFF) ∨ 0x28000 ≤ a.toNat) :
    region a = .unmapped := by
  unfold region
  dsimp only
  rw [if_neg (by omega), if_neg (by omega), if_neg (by omega), if_neg (by omega), if_neg (by omega),
    if_neg (by omega), if_neg (by omega), if_neg (by omega)]

/-- Settles O17: the register rows are the registers at their offsets, and each further row is one lemma. -/
theorem addressMap : Obligations.AddressMap := by
  refine ⟨?_, fun b k => ⟨region_shAddr b k, region_actAddr b k⟩,
    fun b => ⟨region_stAddr b .L false, region_stAddr b .L true, region_stAddr b .R false, region_stAddr b .R true⟩,
    fun j hj => ⟨(region_bufBusAddr .L hj).1, (region_bufBusAddr .R hj).1⟩,
    fun k hk => ⟨region_specBusAddr .L hk, region_specBusAddr .R hk⟩, fun a => region_unmapped⟩
  change ∀ row ∈ ctrlRegs.map fun r => (ctrlAddr r, r), region row.1 = .ctrl row.2
  exact List.forall_mem_map.mpr fun r _ => region_ctrlAddr r

end Sys2Proof.Machine
end

section
/-! PROOFS. What the packed word of a rounded magnitude stands for (spec 20_memory.md R85; 42_filter_chain.md R200). -/

namespace Sys2Proof.Machine.Binary32

/-- Settles O27: a rounded magnitude is on the grid of binary32 values, where packing is exact below 2^277 units. -/
theorem packedWordIsExact : Obligations.PackedWordIsExact := by
  intro neg num den hden
  obtain ⟨hgrid, -⟩ := nearestEven_roundToGrid num hden
  exact ⟨pack_onGrid neg hgrid, pack_of_overflow neg⟩

end Sys2Proof.Machine.Binary32
end

section
/-! PROOFS. The operation a step runs (spec 20_memory.md R89; 30_encoding.md R110, R113; 40_commands.md R132). -/

namespace Sys2Proof.Machine

/-- R113, R118: a word that is no command is performed as the REG_WRITE to CMD that carries it. -/
theorem fetched_of_reject {v : Word} {e : DecodeReject} (h : decodeCommand v = .error e) :
    fetched (.cmd v) = .regWrite cmdAddr 0xF#4 v := by
  simp [fetched, h]

/-- Settles O5: the step takes the operation from the inputs, and what it performs is what the operation decodes to. -/
theorem stepRunsPresentedOperation : Obligations.StepRunsPresentedOperation := by
  intro s op rest hin
  refine ⟨fun i hdecode => ?_, fun v e hop hreject => ?_⟩
  · rw [step_bus hin, fetched_of_decode hdecode]
  · subst hop
    rw [step_bus hin, fetched_of_reject hreject]

end Sys2Proof.Machine
end

section
/-! PROOFS. The opcode map (spec 30_encoding.md R110–R118): a word matches at most one row, the row's word and the row's
operation give each other back, and so decoding and encoding do; then what a word written to CMD does (R113, R132). -/

namespace Sys2Proof

open Sys2Proof.Laws

/-! ### Matching a row -/

/-- OP, the top four bits: every row of the opcode map fixes them. -/
def opField (v : Word) : BitVec 4 := bits v 28 4

theorem opField_eq_of_hits {r : CommandRow} (hr : r ∈ commandRows) {v : Word} (h : r.hits v = true) :
    opField v = opField r.value := by
  have hmask : ∀ r ∈ commandRows, opField r.mask = BitVec.allOnes 4 := by decide
  have hv : v &&& r.mask = r.value := beq_iff_eq.mp h
  calc opField v = opField v &&& opField r.mask := by rw [hmask r hr, BitVec.and_allOnes]
    _ = opField (v &&& r.mask) := BitVec.extractLsb'_and.symm
    _ = opField r.value := by rw [hv]

/-- R113, R114: no word matches two rows, since the rows differ in OP. -/
theorem row_eq_of_hits {r r' : CommandRow} (hr : r ∈ commandRows) (hr' : r' ∈ commandRows) {v : Word}
    (h : r.hits v = true) (h' : r'.hits v = true) : r = r' := by
  have hop : (commandRows.map fun r => opField r.value).Nodup := by decide
  exact List.inj_on_of_nodup_map hop hr hr' ((opField_eq_of_hits hr h).symm.trans (opField_eq_of_hits hr' h'))

theorem find_row_of_hits {r : CommandRow} (hr : r ∈ commandRows) {v : Word} (h : r.hits v = true) :
    commandRows.find? (fun r => r.hits v) = some r := by
  cases hfind : commandRows.find? (fun r => r.hits v) with
  | none => exact absurd h (List.find?_eq_none.mp hfind r hr)
  | some r' =>
    have hits' : r'.hits v = true := List.find?_some (p := fun r : CommandRow => r.hits v) hfind
    rw [row_eq_of_hits (List.mem_of_find?_eq_some hfind) hr hits' h]

/-! ### Decoding a command word -/

/-- R113, R116: a word of a row decodes to what its fields make, if that is well-formed. -/
theorem decodeCommand_of_hits {r : CommandRow} (hr : r ∈ commandRows) {v : Word} (h : r.hits v = true) :
    decodeCommand v = if (r.build v).wellFormed then .ok (r.build v) else .error .illegalStage := by
  simp only [decodeCommand, find_row_of_hits hr h]

/-- R113, R118: a word of no row is rejected. -/
theorem decodeCommand_of_no_row {v : Word} (h : ∀ r ∈ commandRows, r.hits v = false) :
    ∃ e, decodeCommand v = .error e := by
  have hfind : commandRows.find? (fun r => r.hits v) = none := List.find?_eq_none.mpr (by simpa using h)
  simp only [decodeCommand, hfind]
  split <;> exact ⟨_, rfl⟩

theorem decodeCommand_eq_ok_iff {v : Word} {i : Instr} : decodeCommand v = .ok i ↔
    ∃ r ∈ commandRows, r.hits v = true ∧ r.build v = i ∧ i.wellFormed = true := by
  constructor
  · intro h
    by_cases hrow : ∃ r ∈ commandRows, r.hits v = true
    · obtain ⟨r, hr, hhits⟩ := hrow
      rw [decodeCommand_of_hits hr hhits] at h
      split at h
      · rename_i hwf
        cases h
        exact ⟨r, hr, hhits, rfl, hwf⟩
      · cases h
    · obtain ⟨e, he⟩ := decodeCommand_of_no_row (v := v) (by simpa using hrow)
      cases he.symm.trans h
  · rintro ⟨r, hr, hhits, rfl, hwf⟩
    rw [decodeCommand_of_hits hr hhits, if_pos hwf]

/-! ### From an operation to its word and back -/

theorem encode_eq_cmd_iff {i : Instr} {w : Word} : encode i = .cmd w ↔ commandWord i = some w := by
  unfold commandWord
  cases encode i <;> simp

/-- An operation stands in a row: its word matches the row, and the row's fields of that word make the operation. -/
def CommandRow.Holds (r : CommandRow) (i : Instr) : Prop :=
  ∃ w, commandWord i = some w ∧ r.hits w = true ∧ r.build w = i

theorem row_holds_nop : commandRows[0].Holds .nop := ⟨_, rfl, Opcode.nop, rfl⟩

theorem row_holds_prepare : commandRows[1].Holds .prepare := ⟨_, rfl, Opcode.prepare, rfl⟩

theorem row_holds_release : commandRows[2].Holds .release := ⟨_, rfl, Opcode.release, rfl⟩

theorem row_holds_process (n : BitVec 14) : commandRows[3].Holds (.process n) :=
  ⟨_, rfl, Opcode.process n, congrArg Instr.process BitVec.extractLsb'_append_eq_right⟩

theorem row_holds_setSlope (cut : Cut) (k : BitVec 2) : commandRows[4].Holds (.setSlope cut k) := by
  refine ⟨_, rfl, Opcode.setSlope cut k, ?_⟩
  cases cut <;> (revert k; decide)

theorem row_holds_tick : commandRows[5].Holds .tick := ⟨_, rfl, Opcode.tick, rfl⟩

theorem row_holds_clrErr : commandRows[6].Holds .clrErr := ⟨_, rfl, Opcode.clrErr, rfl⟩

theorem row_holds_setByp (stage : BitVec 4) (v : Bool) : commandRows[7].Holds (.setByp stage v) := by
  refine ⟨_, rfl, Opcode.setByp stage v, ?_⟩
  revert stage v
  decide

theorem row_holds_setSubByp (cut : Cut) (idx : BitVec 2) (v : Bool) :
    commandRows[8].Holds (.setSubByp cut idx v) := by
  refine ⟨_, rfl, Opcode.setSubByp cut idx v, ?_⟩
  cases cut <;> (revert idx v; decide)

/-- R110, R114: every operation with a command word stands in a row of the opcode map. -/
theorem exists_row_holds {i : Instr} {w : Word} (h : commandWord i = some w) : ∃ r ∈ commandRows, r.Holds i := by
  cases i with
  | nop => exact ⟨_, List.getElem_mem _, row_holds_nop⟩
  | prepare => exact ⟨_, List.getElem_mem _, row_holds_prepare⟩
  | release => exact ⟨_, List.getElem_mem _, row_holds_release⟩
  | process n => exact ⟨_, List.getElem_mem _, row_holds_process n⟩
  | setSlope cut k => exact ⟨_, List.getElem_mem _, row_holds_setSlope cut k⟩
  | tick => exact ⟨_, List.getElem_mem _, row_holds_tick⟩
  | clrErr => exact ⟨_, List.getElem_mem _, row_holds_clrErr⟩
  | setByp stage v => exact ⟨_, List.getElem_mem _, row_holds_setByp stage v⟩
  | setSubByp cut idx v => exact ⟨_, List.getElem_mem _, row_holds_setSubByp cut idx v⟩
  | regRead addr => cases h
  | regWrite addr strb data => cases h

/-- What a row makes of any word stands in that row. -/
theorem row_holds_build {r : CommandRow} (hr : r ∈ commandRows) (v : Word) : r.Holds (r.build v) := by
  simp only [commandRows, List.mem_cons, List.not_mem_nil, or_false] at hr
  rcases hr with rfl | rfl | rfl | rfl | rfl | rfl | rfl | rfl | rfl
  · exact row_holds_nop
  · exact row_holds_prepare
  · exact row_holds_release
  · exact row_holds_process _
  · exact row_holds_setSlope _ _
  · exact row_holds_tick
  · exact row_holds_clrErr
  · exact row_holds_setByp _ _
  · exact row_holds_setSubByp _ _ _

/-! ### A row's fields and fixed bits are the whole word -/

theorem cutOf_injective : Function.Injective cutOf := by decide

/-- Equal fields at bit 0 are equal bit by bit. -/
theorem getLsbD_eq_of_bits_eq {v w : Word} {len k : Nat} (h : bits v 0 len = bits w 0 len) (hk : k < len) :
    v.getLsbD k = w.getLsbD k := by
  have hbit := congrArg (BitVec.getLsbD · k) h
  simpa [bits, hk] using hbit

/-- Two words of one row that agree in the bits the row leaves free are one word. -/
theorem word_eq_of_free_bits {m x v w : Word} (hv : (v &&& m == x) = true) (hw : (w &&& m == x) = true)
    (free : ∀ k < 32, m.getLsbD k = false → v.getLsbD k = w.getLsbD k) : v = w := by
  apply BitVec.eq_of_getLsbD_eq
  intro k hk
  cases hm : m.getLsbD k with
  | false => exact free k hk hm
  | true =>
    have hbit := congrArg (BitVec.getLsbD · k) ((beq_iff_eq.mp hv).trans (beq_iff_eq.mp hw).symm)
    simpa [hm] using hbit

/-- A row that leaves no bit free holds one word. -/
theorem word_eq_of_full_mask {x v w : Word} (hv : (v &&& 0xFFFFFFFF#32 == x) = true)
    (hw : (w &&& 0xFFFFFFFF#32 == x) = true) : v = w := by
  have hfixed : ∀ k < 32, (0xFFFFFFFF#32).getLsbD k = true := by decide
  exact word_eq_of_free_bits hv hw fun k hk hm => absurd (hfixed k hk) (by simp [hm])

/-- R112, R115: every bit a row leaves free is in one of its fields. -/
theorem build_injective_on_row {r : CommandRow} (hr : r ∈ commandRows) {v w : Word} (hv : r.hits v = true)
    (hw : r.hits w = true) (h : r.build v = r.build w) : v = w := by
  simp only [commandRows, List.mem_cons, List.not_mem_nil, or_false] at hr
  rcases hr with rfl | rfl | rfl | rfl | rfl | rfl | rfl | rfl | rfl
  · exact word_eq_of_full_mask hv hw
  · exact word_eq_of_full_mask hv hw
  · exact word_eq_of_full_mask hv hw
  · have hfree : ∀ k < 32, (0xFFFFC000#32).getLsbD k = false → k < 14 := by decide
    injection h with hn
    exact word_eq_of_free_bits hv hw fun k hk hm => getLsbD_eq_of_bits_eq hn (hfree k hk hm)
  · have hfree : ∀ k < 32, (0xFFFFFEFC#32).getLsbD k = false → k < 2 ∨ k = 8 := by decide
    injection h with hcut hk
    refine word_eq_of_free_bits hv hw fun k hk32 hm => ?_
    rcases hfree k hk32 hm with hlt | rfl
    · exact getLsbD_eq_of_bits_eq hk hlt
    · exact cutOf_injective hcut
  · exact word_eq_of_full_mask hv hw
  · exact word_eq_of_full_mask hv hw
  · have hfree : ∀ k < 32, (0xFFFFFFE0#32).getLsbD k = false → k < 4 ∨ k = 4 := by decide
    injection h with hstage hflag
    refine word_eq_of_free_bits hv hw fun k hk hm => ?_
    rcases hfree k hk hm with hlt | rfl
    · exact getLsbD_eq_of_bits_eq hstage hlt
    · exact hflag
  · have hfree : ∀ k < 32, (0xFFFFFEEC#32).getLsbD k = false → k < 2 ∨ k = 4 ∨ k = 8 := by decide
    injection h with hcut hidx hflag
    refine word_eq_of_free_bits hv hw fun k hk hm => ?_
    rcases hfree k hk hm with hlt | rfl | rfl
    · exact getLsbD_eq_of_bits_eq hidx hlt
    · exact hflag
    · exact cutOf_injective hcut

/-- R114, R115, R117: what the fields of a row's word make is encoded as that word. -/
theorem commandWord_build {r : CommandRow} (hr : r ∈ commandRows) {v : Word} (hv : r.hits v = true) :
    commandWord (r.build v) = some v := by
  obtain ⟨w, hword, hw, hbuild⟩ := row_holds_build hr v
  rw [hword, build_injective_on_row hr hw hv hbuild]

/-! ### The round trips -/

theorem decodeCommand_of_commandWord {i : Instr} {w : Word} (hwf : i.wellFormed = true) (h : commandWord i = some w) :
    decodeCommand w = .ok i := by
  obtain ⟨r, hr, w', hword, hhits, hbuild⟩ := exists_row_holds h
  obtain rfl : w' = w := Option.some.inj (hword.symm.trans h)
  exact decodeCommand_eq_ok_iff.mpr ⟨r, hr, hhits, hbuild, hwf⟩

/-- R111: a descriptor's top bit tells a write from a read, and the address is below it. -/
theorem decodeBus_append (b : Bool) (addr : BusAddr) (strb : BitVec 4) (data : Word) :
    decodeBus (BitVec.ofBool b ++ addr) strb data = if b then .regWrite addr strb data else .regRead addr := by
  rw [decodeBus, BitVec.extractLsb'_append_eq_right, BitVec.getLsbD_append]
  cases b <;> rfl

/-- Settles O1: a command's word is in the command's own row and in no other; a bus transaction's descriptor is taken
apart at its top bit. -/
theorem decodeEncodeRoundTrip : Obligations.DecodeEncodeRoundTrip := by
  intro i hwf
  cases henc : encode i with
  | cmd w => exact decodeCommand_of_commandWord hwf (encode_eq_cmd_iff.mp henc)
  | bus desc strb data =>
    cases i with cases henc
    | regRead addr => exact congrArg Except.ok (decodeBus_append false addr 0#4 0#32)
    | regWrite addr strb data => exact congrArg Except.ok (decodeBus_append true addr strb data)

/-- Settles O2: a decoded word is in a row, and there the fields and the fixed bits give the whole word back. -/
theorem decodedCommandHasOneWord : Obligations.DecodedCommandHasOneWord := by
  intro v i h
  obtain ⟨r, hr, hhits, rfl, hwf⟩ := decodeCommand_eq_ok_iff.mp h
  exact ⟨hwf, commandWord_build hr hhits⟩

/-- A table word laid out as an operation's encoded form decodes to it. -/
theorem decodeTableWord_of_encode {nbits w : Nat} {i : Instr} (hwf : i.wellFormed = true)
    (h : hostOpOfTable nbits w = encode i) : decodeTableWord nbits w = some i := by
  simp only [decodeTableWord, h, decodeEncodeRoundTrip i hwf]

/-- Settles O4: each word is the encoded form of its operation, or has a reserved bit of PROCESS set. -/
theorem specWordsDecode : Obligations.SpecWordsDecode := by
  refine ⟨decodeTableWord_of_encode rfl ?_, decodeTableWord_of_encode rfl ?_, decodeTableWord_of_encode rfl ?_,
    decodeTableWord_of_encode rfl ?_, ?_, decodeTableWord_of_encode rfl ?_⟩ <;> decide

end Sys2Proof

namespace Sys2Proof.Machine

/-! ### A word written to CMD -/

/-- R131, R132: a full-strobe write of CMD executes the command word. -/
theorem exec_regWrite_cmd (v : Word) (s : State) : exec (.regWrite 0x00008#20 0xF#4 v) s = executeCommandWord v s := by
  have hr : region 0x00008#20 = .ctrl .cmd := region_ctrlAddr .cmd
  have hok : writeFailure s 0x00008#20 0xF#4 = none := by
    rw [writeFailure_eq_none, hr]
    exact ⟨rfl, rfl, nofun, rfl, nofun⟩
  simp only [exec, execRegWrite, hok, hr, if_true]

theorem executeCommandWord_of_reject {v : Word} {e : DecodeReject} (h : decodeCommand v = .error e) (s : State) :
    executeCommandWord v s = .next (s.cmdError .illegal) := by
  simp only [executeCommandWord, h]

theorem executeCommandWord_of_decode {v : Word} {i : Instr} (h : decodeCommand v = .ok i) (s : State) :
    executeCommandWord v s = exec i s := by
  obtain ⟨-, hword⟩ := decodedCommandHasOneWord v i h
  unfold executeCommandWord
  rw [h]
  cases i with
  | regRead addr => cases hword
  | regWrite addr strb data => cases hword
  | _ => rfl

/-- R116, R118: SET_BYP of a stage above 5 is rejected. -/
theorem decodeCommand_setByp_of_stage {v : Word} (hrow : v &&& 0xFFFFFFE0#32 = 0x70000000#32)
    (hstage : 5 < (v.extractLsb' 0 4).toNat) : decodeCommand v = .error .illegalStage := by
  have hhits : commandRows[7].hits v = true := beq_iff_eq.mpr hrow
  rw [decodeCommand_of_hits (List.getElem_mem _) hhits, if_neg]
  simpa [commandRows, Instr.wellFormed, bits] using hstage

/-- Settles O3: the write executes the word, and decoding the word rejects it or gives the command back. -/
theorem commandWordExecution : Obligations.CommandWordExecution := by
  refine ⟨fun v s hillegal => ?_, fun i w s hwf hw => ?_⟩
  · obtain ⟨e, he⟩ : ∃ e, decodeCommand v = .error e := by
      rcases hillegal with hrows | ⟨hrow, hstage⟩
      · refine decodeCommand_of_no_row fun r hr => beq_eq_false_iff_ne.mpr ?_
        exact hrows (r.value, r.mask) (List.mem_map_of_mem (f := fun r : CommandRow => (r.value, r.mask)) hr)
      · exact ⟨_, decodeCommand_setByp_of_stage hrow hstage⟩
    rw [exec_regWrite_cmd, executeCommandWord_of_reject he, cmdError_eq]
  · rw [exec_regWrite_cmd, executeCommandWord_of_decode (decodeCommand_of_commandWord hwf hw)]

end Sys2Proof.Machine
end

section
/-! PROOFS. The commands but PROCESS (spec 40_commands.md R133–R138, R145–R157): when the checks of PREPARE and
RELEASE pass, what PREPARE leaves of each piece of state, and the single bits that the SET_* commands write. -/

namespace Sys2Proof.Machine

/-! ### Without checks -/

/-- Settles O8: both are one update of the state. -/
theorem nopAndClrErrAnswer : Obligations.NopAndClrErrAnswer := fun _ => ⟨rfl, rfl⟩

/-! ### The engines idle or active -/

theorem engineActive_iff {s : State} : s.engineActive = true ↔ s.astate ≠ .idle ∨ s.rstate ≠ .idle := by
  simp [State.engineActive, State.busyA, State.busyR]

/-- Settles O11: the only check of RELEASE is that no engine is active. -/
theorem releaseClearsPrepared : Obligations.ReleaseClearsPrepared := by
  intro s
  refine ⟨fun ha hr => ?_, fun hactive => ?_⟩
  · simp only [exec, execRelease, engineActive_eq_false.mpr ⟨ha, hr⟩]
    rfl
  · simp only [exec, execRelease, engineActive_iff.mpr hactive, if_true, cmdError_eq]

/-! ### PREPARE -/

/-- R136: the conditions on FFT_SEL, FRAME_SIZE and BLK_MAX. -/
theorem configLegal_iff {s : State} : s.configLegal = true ↔
    s.fftSel ≠ 3 ∧ 0 < s.frameSize.toNat ∧ s.frameSize.toNat ≤ 2048 * 2 ^ s.fftSel.toNat
      ∧ 0 < s.blkMax.toNat ∧ s.blkMax.toNat ≤ 8192 := by
  simp only [State.configLegal, Bool.and_eq_true, decide_eq_true_eq, fftSizeOf_eq, and_assoc]

/-- R136, by its negation: what makes a configuration illegal. -/
theorem configLegal_eq_false_iff {s : State} : s.configLegal = false ↔
    s.fftSel = 3 ∨ s.frameSize = 0 ∨ 2048 * 2 ^ s.fftSel.toNat < s.frameSize.toNat ∨ s.blkMax = 0
      ∨ 8192 < s.blkMax.toNat := by
  have hzero : ∀ x : BitVec 14, x = 0 ↔ ¬0 < x.toNat := fun x => by
    rw [Nat.not_lt, Nat.le_zero, ← BitVec.toNat_inj]
    rfl
  simp only [← Bool.not_eq_true, configLegal_iff, hzero, not_and_or, not_not, not_le]

/-- Settles O10: ENGINE_BUSY is checked before BAD_CONFIG. -/
theorem prepareErrors : Obligations.PrepareErrors := by
  intro s
  refine ⟨fun hactive => ?_, fun ha hr hillegal => ?_⟩
  · simp only [exec, execPrepare, engineActive_iff.mpr hactive, if_true, cmdError_eq]
  · have hidle := engineActive_eq_false.mpr ⟨ha, hr⟩
    have hconfig := configLegal_eq_false_iff.mpr hillegal
    simp [exec, execPrepare, hidle, hconfig, cmdError_eq]

/-- R136: with both engines idle and a legal configuration PREPARE has its effect. -/
theorem exec_prepare_of_legal {s : State} (hidle : s.engineActive = false) (hlegal : s.configLegal = true) :
    exec .prepare s = .next (prepareEffect s).writeDone := by
  simp [exec, execPrepare, hidle, hlegal]

@[simp] theorem prepareEffect_ch (s : State) (c : Chan) : (prepareEffect s).ch c = (s.ch c).prepared := by
  cases c <;> rfl

/-- R45, R136: ACT_FFT_SIZE becomes N. -/
theorem prepareEffect_actFftSize_toNat (s : State) :
    (prepareEffect s).actFftSize.toNat = 2048 * 2 ^ s.fftSel.toNat := by
  have hpow : 2 ^ s.fftSel.toNat < 2 ^ 4 := Nat.pow_lt_pow_right (by omega) (by omega)
  show (BitVec.ofNat 32 (fftSizeOf s.fftSel)).toNat = _
  rw [BitVec.toNat_ofNat, fftSizeOf_eq]
  exact Nat.mod_eq_of_lt (by omega)

theorem prepareEffect_actFrameSize_toNat (s : State) : (prepareEffect s).actFrameSize.toNat = s.frameSize.toNat :=
  BitVec.toNat_setWidth_of_le (by omega)

theorem prepareEffect_actBlkMax_toNat (s : State) : (prepareEffect s).actBlkMax.toNat = s.blkMax.toNat :=
  BitVec.toNat_setWidth_of_le (by omega)

/-- R136: ROLL is cleared. -/
theorem prepareEffect_rollWord (s : State) (c : Chan) (i : Nat) : (prepareEffect s).rollWord c i = 0 := by
  rw [State.rollWord, prepareEffect_ch, Channel.prepared_roll, Ram.read_filled]
  rfl

/-- R136: SPEC is cleared. -/
theorem prepareEffect_specWord (s : State) (c : Chan) (k : Nat) : (prepareEffect s).specWord c k = 0 := by
  show Memory.readWord _ (Ram.filled 0) _ = 0
  simp only [Memory.readWord, Ram.read_filled]
  rfl

/-- R136: BUF is not changed. -/
theorem prepareEffect_ramByte (s : State) {a : Nat} (ha : a < 0x20000) :
    (prepareEffect s).ramByte a = s.ramByte a := by
  simp only [State.ramByte, ha, if_true]
  rfl

/-- Settles O9: the checks pass, and each clause is what the effect leaves of one piece of state. -/
theorem prepareInitialises : Obligations.PrepareInitialises := by
  intro s ha hr hsel hframe hfit hblk hmax
  have hidle := engineActive_eq_false.mpr ⟨ha, hr⟩
  have hlegal := configLegal_iff.mpr ⟨hsel, hframe, hfit, hblk, hmax⟩
  refine ⟨_, exec_prepare_of_legal hidle hlegal, rfl, prepareEffect_actFftSize_toNat s,
    prepareEffect_actFrameSize_toNat s, prepareEffect_actBlkMax_toNat s, fun c => ?_, rfl, rfl, rfl, rfl, rfl,
    fun a => prepareEffect_ramByte s⟩
  rw [State.writeDone_ch, prepareEffect_ch]
  exact ⟨fun b => Vector.getElem_replicate b.isLt, rfl, rfl, rfl, rfl, rfl, rfl, rfl,
    fun i _ => prepareEffect_rollWord s c i, fun k _ => prepareEffect_specWord s c k, rfl, rfl⟩

/-! ### TICK -/

/-- Settles O15: the request is TICK_REQ or AN_EN. -/
theorem tickRequestsOnce : Obligations.TickRequestsOnce := by
  intro s
  refine ⟨fun hp hen => ?_, fun hp hen => ?_, fun hp => ?_⟩
  · simp [exec, execTick, hp, hen, State.writeDone]
  · simp [exec, execTick, hp, hen, State.writeDone]
  · simp [exec, execTick, hp, cmdError_eq]

/-! ### The SET_* commands -/

/-- R145: the sub-bypasses of 0..k are off, the others as before. -/
theorem clearDown_getLsbD {k i : Nat} (x : BitVec 4) (hi : i < 4) :
    (clearDown k x).getLsbD i = (decide (k < i) && x.getLsbD i) := by
  induction k generalizing x with
  | zero =>
    rw [clearDown, setBit_getLsbD x 0 i false hi]
    rcases Nat.eq_zero_or_pos i with rfl | hpos
    · rfl
    · simp [hpos, Nat.ne_of_gt hpos]
  | succ k ih =>
    rw [clearDown, ih, setBit_getLsbD x (k + 1) i false hi]
    by_cases h : i = k + 1
    · simp [h]
    · have hiff : k < i ↔ k + 1 < i := by omega
      simp [h, hiff]

/-- R145: slope ordinal k bypasses exactly the sub-biquads above k. -/
theorem slopeSubByp_getLsbD (k : BitVec 2) {i : Nat} (hi : i < 4) :
    (slopeSubByp k).getLsbD i = decide (k.toNat < i) := by
  have hall : ∀ j < 4, (0b1111#4).getLsbD j = true := by decide
  rw [slopeSubByp, clearDown_getLsbD _ hi, hall i hi, Bool.and_true]

/-- Settles O14: both cuts take the sub-bypass vector of the slope. -/
theorem setSlopeEnablesPrefix : Obligations.SetSlopeEnablesPrefix := fun k _ =>
  ⟨⟨slopeSubByp k, fun _ => slopeSubByp_getLsbD k, rfl⟩, ⟨slopeSubByp k, fun _ => slopeSubByp_getLsbD k, rfl⟩⟩

/-- R154: SET_BYP of a stage 0..5 writes its bit of BYPASS. -/
theorem exec_setByp_of_stage {stage : BitVec 4} (h : stage.toNat ≤ 5) (v : Bool) (s : State) :
    exec (.setByp stage v) s
      = .next { s with bypass := setBit s.bypass stage.toNat v, pchg := true, resp := .write false } := by
  simp only [exec, execSetByp, if_neg (Nat.not_lt.mpr h)]
  rfl

/-- R116, R154: SET_BYP of a stage 6..15 is illegal. -/
theorem exec_setByp_of_illegal {stage : BitVec 4} (h : 5 < stage.toNat) (v : Bool) (s : State) :
    exec (.setByp stage v) s = .next (s.cmdError .illegal) := by
  simp only [exec, execSetByp, if_pos h]

/-- Settles O16: each command writes one bit by `setBit`. -/
theorem bypassCommandsWriteOneBit : Obligations.BypassCommandsWriteOneBit :=
  ⟨fun stage v s =>
    ⟨fun h => ⟨_, fun i hi => setBit_getLsbD s.bypass stage.toNat i v hi, exec_setByp_of_stage h v s⟩,
      fun h => exec_setByp_of_illegal h v s⟩,
    fun idx v s =>
      ⟨⟨_, fun i hi => setBit_getLsbD s.lcCfg.subByp idx.toNat i v hi, rfl⟩,
        ⟨_, fun i hi => setBit_getLsbD s.hcCfg.subByp idx.toNat i v hi, rfl⟩⟩⟩

end Sys2Proof.Machine
end

section
/-! PROOFS. The errors of the two bus transactions (spec 40_commands.md R130, R131; 60_exceptions.md R303, R306): each
check fails at its own addresses, and the checks before it pass there. -/

namespace Sys2Proof.Machine

theorem aligned_eq_false_iff (a : BusAddr) : aligned a = false ↔ a.toNat % 4 ≠ 0 := by
  rw [← Bool.not_eq_true, aligned_iff]

theorem busyA_eq_true {s : State} (h : s.astate ≠ .idle) : s.busyA = true := decide_eq_true h

theorem region_ne_unmapped_of_busyRefused {r : Region} (h : r.busyRefused = true) : r ≠ .unmapped := by
  rintro rfl
  cases h

/-! ### REG_READ -/

/-- R303: a failed read records its error. -/
theorem exec_regRead_of_failure {s : State} {a : BusAddr} {code : ErrCode} (h : readFailure s a = some code) :
    exec (.regRead a) s = .next { s with
      lastErr := code, irqStatus := s.irqStatus ||| 0b001000#6, resp := .read 0 true } := by
  simp only [exec, execRegRead, h, readError_eq]

theorem readFailure_of_misaligned (s : State) {a : BusAddr} (h : a.toNat % 4 ≠ 0) : readFailure s a = some .align := by
  simp [readFailure, (aligned_eq_false_iff a).mpr h]

theorem readFailure_of_unmapped (s : State) {a : BusAddr} (haligned : a.toNat % 4 = 0) (h : region a = .unmapped) :
    readFailure s a = some .addr := by
  simp [readFailure, (aligned_iff a).mpr haligned, h]

theorem readFailure_of_busy {s : State} {a : BusAddr} (haligned : a.toNat % 4 = 0) (hbusy : s.astate ≠ .idle)
    (h : (region a).busyRefused = true) : readFailure s a = some .busy := by
  simp [readFailure, (aligned_iff a).mpr haligned, region_ne_unmapped_of_busyRefused h, h, busyA_eq_true hbusy]

/-- Settles O18: each clause is one failure of the read. -/
theorem readErrorsInOrder : Obligations.ReadErrorsInOrder := fun a s =>
  ⟨fun h => exec_regRead_of_failure (readFailure_of_misaligned s h),
    fun haligned h => exec_regRead_of_failure (readFailure_of_unmapped s haligned h),
    fun haligned hbusy h =>
      exec_regRead_of_failure (readFailure_of_busy haligned hbusy ((busyRefused_iff a).mpr h))⟩

/-! ### REG_WRITE -/

/-- R303: a failed write records its error. -/
theorem exec_regWrite_of_failure {s : State} {a : BusAddr} {strb : BitVec 4} {code : ErrCode}
    (h : writeFailure s a strb = some code) (v : Word) :
    exec (.regWrite a strb v) s = .next { s with
      lastErr := code, irqStatus := s.irqStatus ||| 0b001000#6, resp := .write true } := by
  simp only [exec, execRegWrite, h, writeError_eq]

theorem writeFailure_of_misaligned (s : State) {a : BusAddr} {strb : BitVec 4} (h : a.toNat % 4 ≠ 0 ∨ strb ≠ 0xF#4) :
    writeFailure s a strb = some .align := by
  rw [← aligned_eq_false_iff] at h
  rw [writeFailure, if_pos]
  rcases h with h | h <;> simp [h]

theorem writeFailure_of_unmapped (s : State) {a : BusAddr} (haligned : a.toNat % 4 = 0) (h : region a = .unmapped) :
    writeFailure s a 0xF#4 = some .addr := by
  simp [writeFailure, (aligned_iff a).mpr haligned, h]

theorem writeFailure_of_readOnly (s : State) {a : BusAddr} (haligned : a.toNat % 4 = 0)
    (h : (region a).writeRefused = true) : writeFailure s a 0xF#4 = some .ro := by
  have hmapped : region a ≠ .unmapped := fun hr => by
    rw [hr] at h
    cases h
  simp [writeFailure, (aligned_iff a).mpr haligned, hmapped, h]

theorem writeFailure_of_busy {s : State} {a : BusAddr} (haligned : a.toNat % 4 = 0) (hbusy : s.astate ≠ .idle)
    (hwritable : (region a).writeRefused = false) (h : (region a).busyRefused = true) :
    writeFailure s a 0xF#4 = some .busy := by
  simp [writeFailure, (aligned_iff a).mpr haligned, region_ne_unmapped_of_busyRefused h, hwritable, h,
    busyA_eq_true hbusy]

/-- R32: the registers that are RO or RC stand at the indices 0, 1, 3, 7 and from 17 up. -/
theorem ctrlRegs_writeRefused : ∀ k < 30, (k ∈ [0, 1, 3, 7] ∨ 17 ≤ k) →
    ∀ r ∈ ctrlRegs[k]?, (Region.ctrl r).writeRefused = true := by
  decide

/-- R32, R131: the RO and RC registers by their offsets. -/
theorem writeRefused_of_ctrl {a : BusAddr} (haligned : a.toNat % 4 = 0)
    (h : a.toNat ∈ [0x000, 0x004, 0x00C, 0x01C] ∨ (0x044 ≤ a.toNat ∧ a.toNat < 0x078)) :
    (region a).writeRefused = true := by
  simp only [List.mem_cons, List.not_mem_nil, or_false] at h
  obtain ⟨r, hr, hregion⟩ := region_ctrl (a := a) (by omega)
  have hindex : a.toNat / 4 ∈ [0, 1, 3, 7] ∨ 17 ≤ a.toNat / 4 := by
    simp only [List.mem_cons, List.not_mem_nil, or_false]
    omega
  rw [hregion]
  exact ctrlRegs_writeRefused _ (by omega) hindex r hr

/-- R131: the locations that a write is refused for as read-only, by their addresses. -/
theorem writeRefused_of_address {a : BusAddr} (haligned : a.toNat % 4 = 0)
    (h : a.toNat ∈ [0x000, 0x004, 0x00C, 0x01C] ∨ (0x044 ≤ a.toNat ∧ a.toNat < 0x078)
      ∨ (0x200 ≤ a.toNat ∧ a.toNat < 0x2DC) ∨ (0x300 ≤ a.toNat ∧ a.toNat < 0x3B0)
      ∨ (0x20000 ≤ a.toNat ∧ a.toNat < 0x28000)) : (region a).writeRefused = true := by
  rcases h with h | h | h | h | ⟨hlow, hhigh⟩
  · exact writeRefused_of_ctrl haligned (.inl h)
  · exact writeRefused_of_ctrl haligned (.inr h)
  · rw [region_actCoef h]
    rfl
  · rw [region_stateView h]
    rfl
  · rcases Nat.lt_or_ge a.toNat 0x24000 with hL | hR
    · rw [region_specL ⟨hlow, hL⟩]
      rfl
    · rw [region_specR ⟨hR, hhigh⟩]
      rfl

/-- R55, R131: the block buffers take data. -/
theorem writeRefused_buf {a : BusAddr} (h : 0x10000 ≤ a.toNat ∧ a.toNat < 0x20000) :
    (region a).writeRefused = false := by
  obtain ⟨hlow, hhigh⟩ := h
  rcases Nat.lt_or_ge a.toNat 0x18000 with hL | hR
  · rw [region_bufL ⟨hlow, hL⟩]
    rfl
  · rw [region_bufR ⟨hR, hhigh⟩]
    rfl

/-- Settles O22: each clause is one failure of the write. -/
theorem writeErrorsInOrder : Obligations.WriteErrorsInOrder := by
  intro a strb v s
  refine ⟨fun h => exec_regWrite_of_failure (writeFailure_of_misaligned s h) v, ?_, ?_, ?_⟩
  · rintro haligned rfl h
    exact exec_regWrite_of_failure (writeFailure_of_unmapped s haligned h) v
  · rintro haligned rfl h
    exact exec_regWrite_of_failure (writeFailure_of_readOnly s haligned (writeRefused_of_address haligned h)) v
  · rintro haligned rfl h hbusy
    have hrefused := (busyRefused_iff a).mpr (.inr h)
    exact exec_regWrite_of_failure (writeFailure_of_busy haligned hbusy (writeRefused_buf h) hrefused) v

end Sys2Proof.Machine
end

section
/-! PROOFS. PROCESS (spec 40_commands.md R140; 42_filter_chain.md R210–R212, R221): its checks, the set a commit makes
active, and the bytes of the block buffers that the clearing of missing inputs covers. -/

namespace Sys2Proof.Machine

/-! ### The checks -/

/-- Settles O13: each check is reached when those before it pass. -/
theorem processErrorsInOrder : Obligations.ProcessErrorsInOrder := by
  intro n s
  refine ⟨fun hp => ?_, fun hp ha => ?_, fun hp ha hn => ?_⟩
  · simp [exec, execProcess, hp, cmdError_eq]
  · simp [exec, execProcess, hp, busyA_eq_true ha, cmdError_eq]
  · simp [exec, execProcess, hp, State.busyA, ha, hn, cmdError_eq]

/-- R140: a PROCESS whose checks pass has its effect. -/
theorem exec_process_of_legal {n : BitVec 14} {s : State} (hp : s.prepared = true) (ha : s.astate = .idle)
    (hn : n.toNat ≤ s.actBlkMax.toNat) : exec (.process n) s = .next (processEffect s n.toNat).writeDone := by
  simp [exec, execProcess, hp, State.busyA, ha, Nat.not_lt.mpr hn]

/-! ### The commit -/

/-- R210: a set is finite if its five words are. -/
theorem Coefs.allFinite_iff (x : Coefs) :
    x.allFinite = true ↔ ∀ k : Fin 5, Binary32.isFinite (x.get k) = true := by
  simp only [Coefs.allFinite, Bool.and_eq_true, and_assoc]
  constructor
  · rintro ⟨hb0, hb1, hb2, ha1, ha2⟩ k
    fin_cases k <;> assumption
  · exact fun h => ⟨h 0, h 1, h 2, h 3, h 4⟩

/-- R210, R211: a set that is not finite is replaced by unity. -/
theorem committed_eq (x : Coefs) : committed x =
    if (∀ k : Fin 5, Binary32.isFinite (x.get k) = true) then x else ⟨0x3F800000, 0, 0, 0, 0⟩ :=
  if_congr x.allFinite_iff rfl rfl

/-- R210: some word of the shadow bank is not finite. -/
theorem anyNonFinite_iff (bank : Vector Coefs 11) : anyNonFinite bank = true ↔
    ∃ b : Fin 11, ∃ k : Fin 5, Binary32.isFinite ((bank[b]).get k) = false := by
  have hall : ∀ b : Fin 11, b ∈ biquadOrder := by decide
  simp only [anyNonFinite, List.any_eq_true, hall, true_and, Bool.not_eq_true', ← Bool.not_eq_true,
    Coefs.allFinite_iff, not_forall]

/-! ### The clearing of missing inputs -/

/-- R14: the lanes of +0.0 are 0. -/
theorem flatMap_lanes_zeros (n : Nat) : (List.replicate n posZero).flatMap lanes = List.replicate (4 * n) 0 := by
  rw [List.flatMap_replicate, show lanes posZero = List.replicate 4 0 from rfl, List.flatten_replicate_replicate,
    Nat.mul_comm]

/-- R221: consecutive words of +0.0 make every byte of the range 0 and no other. -/
theorem Memory.read_writeWords_zeros (draw : Nat → Byte) (m : Memory) (a b n : Nat) :
    Ram.read draw (Memory.writeWords m a (List.replicate n posZero)) b
      = if a ≤ b ∧ b < a + 4 * n then 0 else Ram.read draw m b := by
  rw [Memory.writeWords, flatMap_lanes_zeros, Ram.read_writeList, List.getElem?_replicate]
  by_cases hlow : a ≤ b
  · have hhigh : b - a < 4 * n ↔ b < a + 4 * n := by omega
    simp only [hlow, if_true, true_and, hhigh]
    split <;> rfl
  · simp only [hlow, if_false, false_and]

/-- A byte address inside words 0..n−1 of the buffer of a channel that has no input, IN_CH..1 (R221). -/
def State.MissingInput (s : State) (n a : Nat) : Prop :=
  ∃ c : Chan, s.inCh.toNat ≤ chanIndex c ∧ bufAddr c 0 ≤ a ∧ a < bufAddr c 0 + 4 * n

/-- R221: the bytes of the missing inputs become 0, every other one stays. -/
theorem read_clearMissingInputs (s : State) (n a : Nat) (draw : Nat → Byte) [Decidable (s.MissingInput n a)] :
    Ram.read draw (clearMissingInputs s n).buf a = if s.MissingInput n a then 0 else Ram.read draw s.buf a := by
  have hmissing : s.MissingInput n a ↔
      (s.inCh.toNat ≤ 1 ∧ bufAddr .R 0 ≤ a ∧ a < bufAddr .R 0 + 4 * n)
        ∨ (s.inCh.toNat ≤ 0 ∧ bufAddr .L 0 ≤ a ∧ a < bufAddr .L 0 + 4 * n) := by
    constructor
    · rintro ⟨c, h⟩
      cases c with
      | L => exact .inr h
      | R => exact .inl h
    · rintro (h | h)
      · exact ⟨.R, h⟩
      · exact ⟨.L, h⟩
  unfold clearMissingInputs
  by_cases hL : s.inCh.toNat ≤ 0
  · have hR : s.inCh.toNat ≤ 1 := by omega
    simp only [hL, hR, if_true, hmissing, true_and, State.setBufWords_buf, Memory.read_writeWords_zeros, ite_or]
  · by_cases hR : s.inCh.toNat ≤ 1
    · simp only [hL, hR, if_true, if_false, hmissing, true_and, false_and, or_false, State.setBufWords_buf,
        Memory.read_writeWords_zeros]
    · simp only [hL, hR, if_false, hmissing, false_and, or_false]

/-- A byte of a buffer word is a missing input's exactly if the word is one of the first n of a channel that has no
input: the two buffers do not overlap. -/
theorem missingInput_bufAddr {s : State} {n j k : Nat} {c : Chan} (hj : j < 8192) (hk : k < 4) :
    s.MissingInput n (bufAddr c j + k) ↔ s.inCh.toNat ≤ chanIndex c ∧ j < n := by
  constructor
  · rintro ⟨d, hd, hlow, hhigh⟩
    cases c <;> cases d <;> simp only [bufAddr, chanIndex] at * <;> omega
  · rintro ⟨hc, hn⟩
    exact ⟨c, hc, by simp only [bufAddr]; omega, by simp only [bufAddr]; omega⟩

/-- R221: the first n words of a channel that has no input become +0.0, every other word stays. -/
theorem readWord_clearMissingInputs (s : State) (n : Nat) (c : Chan) {j : Nat} (hj : j < 8192) (draw : Nat → Byte) :
    Memory.readWord draw (clearMissingInputs s n).buf (bufAddr c j)
      = if s.inCh.toNat ≤ chanIndex c ∧ j < n then 0 else Memory.readWord draw s.buf (bufAddr c j) := by
  classical
  have hbyte : ∀ k < 4, Ram.read draw (clearMissingInputs s n).buf (bufAddr c j + k)
      = if s.inCh.toNat ≤ chanIndex c ∧ j < n then 0 else Ram.read draw s.buf (bufAddr c j + k) := fun k hk => by
    rw [read_clearMissingInputs, if_congr (missingInput_bufAddr hj hk) rfl rfl]
  have hfirst := hbyte 0 (by omega)
  rw [Nat.add_zero] at hfirst
  simp only [Memory.readWord, hfirst, hbyte 1, hbyte 2, hbyte 3, Nat.reduceLT]
  split <;> rfl

/-- A byte outside every word of the missing inputs is no missing input's. -/
theorem not_missingInput_of_outside {s : State} {n a : Nat}
    (h : ∀ (c : Chan) (j : Nat), s.inCh.toNat ≤ chanIndex c → j < n → a < bufAddr c j ∨ bufAddr c j + 4 ≤ a) :
    ¬s.MissingInput n a := by
  rintro ⟨c, hc, hlow, hhigh⟩
  have hword := h c ((a - bufAddr c 0) / 4) hc (by omega)
  rw [bufAddr_eq] at hword
  omega

/-! ### The command -/

/-- R140: PROCESS leaves every byte outside the missing inputs. -/
theorem processEffect_ramByte {s : State} {n a : Nat} (h : ¬s.MissingInput n a) :
    (processEffect s n).ramByte a = s.ramByte a := by
  classical
  rw [processEffect_eq]
  simp only [State.ramByte, read_clearMissingInputs, if_neg h]

/-- Settles O12: the effect is the clearing of the missing inputs, the commit and the start of AUDIO. -/
theorem processCommitsAndStarts : Obligations.ProcessCommitsAndStarts := by
  intro n s hp ha hn
  have hrun := exec_process_of_legal hp ha hn
  have hframe : ∀ a, ¬s.MissingInput n.toNat a → (processEffect s n.toNat).writeDone.ramByte a = s.ramByte a :=
    fun _ => processEffect_ramByte
  rw [processEffect_eq] at hrun hframe
  exact ⟨_, hrun, rfl, rfl, fun b => (mapBank_get committed s.shCoef b).trans (committed_eq _), rfl, rfl, rfl,
    if_congr (anyNonFinite_iff s.shCoef) rfl rfl, fun c _ hj => readWord_clearMissingInputs s n.toNat c hj _,
    fun a h => hframe a (not_missingInput_of_outside h), rfl⟩

end Sys2Proof.Machine
end

section
/-! PROOFS. The special values of the binary32 operations (spec 42_filter_chain.md R201): what a NaN, an infinity and a
zero operand give, whatever FTZ is. -/

namespace Sys2Proof.Machine.Binary32

/-! ### The classes of words -/

theorem not_isNaN_of_isInf {w : Word} (h : isInf w = true) : isNaN w = false := by
  simp only [isInf, Bool.and_eq_true, beq_iff_eq] at h
  simp [isNaN, h]

theorem isFinite_of_isZero {w : Word} (h : isZero w = true) : isFinite w = true := by
  simp only [isZero, Bool.and_eq_true, beq_iff_eq] at h
  simp [isFinite, h]

/-- R201 (d): a zero is read as zero, whatever FTZ is. -/
theorem valueRead_of_isZero {w : Word} (h : isZero w = true) : valueRead w = 0 := by
  simp only [isZero, Bool.and_eq_true, beq_iff_eq] at h
  obtain ⟨hexp, hfrac⟩ := h
  rw [valueRead_eq_zero]
  simp [operandUnits, units, hexp, hfrac]

/-- R85: an infinity has one word for each sign. -/
theorem eq_inf_of_isInf {w : Word} (h : isInf w = true) : w = inf (sign w) := by
  simp only [isInf, Bool.and_eq_true, beq_iff_eq, expField_eq, fracField_eq] at h
  have hlt := w.isLt
  refine BitVec.eq_of_toNat_eq ?_
  by_cases hneg : 2 ^ 31 ≤ w.toNat
  · rw [sign_eq, decide_eq_true hneg]
    show w.toNat = 0xFF800000
    omega
  · rw [sign_eq, decide_eq_false hneg]
    show w.toNat = 0x7F800000
    omega

theorem isNaN_neg (w : Word) : isNaN (neg w) = isNaN w := by
  rw [isNaN, isNaN, expField_neg, fracField_neg]

theorem isInf_neg (w : Word) : isInf (neg w) = isInf w := by
  rw [isInf, isInf, expField_neg, fracField_neg]

/-- The other infinity. -/
theorem neg_of_isInf {w : Word} (h : isInf w = true) : neg w = inf (!sign w) := by
  rw [← sign_neg]
  exact eq_inf_of_isInf ((isInf_neg w).trans h)

/-! ### NaN operands (R201 (a)) -/

theorem fadd_of_isNaN {a b : Word} (h : isNaN a = true ∨ isNaN b = true) : fadd a b = qnan := by
  rw [← Bool.or_eq_true] at h
  simp [fadd, add, h]

theorem fsub_of_isNaN {a b : Word} (h : isNaN a = true ∨ isNaN b = true) : fsub a b = qnan := by
  rcases h with ha | hb
  · unfold fsub sub
    split
    · rfl
    · exact fadd_of_isNaN (.inl ha)
  · simp [fsub, sub, hb]

theorem fmul_of_isNaN {a b : Word} (h : isNaN a = true ∨ isNaN b = true) : fmul a b = qnan := by
  rw [← Bool.or_eq_true] at h
  simp [fmul, mul, h]

theorem fdiv_of_isNaN {a b : Word} (h : isNaN a = true ∨ isNaN b = true) : fdiv a b = qnan := by
  rw [← Bool.or_eq_true] at h
  simp [fdiv, div, h]

theorem isNaN_qnan : isNaN qnan = true := by decide

/-! ### Zeros (R201 (b)) -/

/-- The sum of two zeros is negative only of two negative ones. -/
theorem fadd_of_isZero {a b : Word} (ha : isZero a = true) (hb : isZero b = true) :
    fadd a b = zero (sign a && sign b) := by
  refine (fadd_spec (isFinite_of_isZero ha) (isFinite_of_isZero hb)).2 ?_
  rw [valueRead_of_isZero ha, valueRead_of_isZero hb, add_zero]

/-- A finite value less itself is +0.0. -/
theorem fsub_self {a : Word} (h : isFinite a = true) : fsub a a = zero false := by
  rw [(fsub_spec h h).2 (sub_self _), Bool.and_not_self]

/-! ### An infinity and a finite value (R201 (c)) -/

/-- A difference is the sum with the second operand's sign turned, unless that operand is a NaN. -/
theorem fsub_eq_fadd_neg_of_not_isNaN (a : Word) {b : Word} (h : isNaN b = false) : fsub a b = fadd a (neg b) := by
  simp [fsub, fadd, sub, h]

section InfFinite

variable {a b : Word} (ha : isInf a = true) (hb : isFinite b = true)
include ha hb

theorem fadd_inf_finite : fadd a b = a := by
  simp [fadd, add, ha, not_isNaN_of_isInf ha, not_isNaN_of_isFinite hb, not_isInf_of_isFinite hb]

theorem fadd_finite_inf : fadd b a = a := by
  simp [fadd, add, ha, not_isNaN_of_isInf ha, not_isNaN_of_isFinite hb, not_isInf_of_isFinite hb]

theorem fsub_inf_finite : fsub a b = a := by
  rw [fsub_eq_fadd_neg a hb, fadd_inf_finite ha ((isFinite_neg b).trans hb)]

theorem fsub_finite_inf : fsub b a = inf (!sign a) := by
  rw [fsub_eq_fadd_neg_of_not_isNaN b (not_isNaN_of_isInf ha), fadd_finite_inf ((isInf_neg a).trans ha) hb,
    neg_of_isInf ha]

theorem fmul_inf_finite : fmul a b = if valueRead b = 0 then qnan else inf (sign a != sign b) := by
  simp [fmul, mul, ha, not_isNaN_of_isInf ha, not_isNaN_of_isFinite hb, not_isInf_of_isFinite hb, valueRead_eq_zero]

theorem fmul_finite_inf : fmul b a = if valueRead b = 0 then qnan else inf (sign a != sign b) := by
  simp [fmul, mul, ha, not_isNaN_of_isInf ha, not_isNaN_of_isFinite hb, not_isInf_of_isFinite hb, valueRead_eq_zero,
    bne_comm]

theorem fdiv_inf_finite : fdiv a b = inf (sign a != sign b) := by
  simp [fdiv, div, ha, not_isNaN_of_isInf ha, not_isNaN_of_isFinite hb, not_isInf_of_isFinite hb]

theorem fdiv_finite_inf : fdiv b a = zero (sign a != sign b) := by
  simp [fdiv, div, ha, not_isNaN_of_isInf ha, not_isNaN_of_isFinite hb, not_isInf_of_isFinite hb, bne_comm]

end InfFinite

/-! ### Two infinities (R201 (a), (c)) -/

section InfInf

variable {a b : Word} (ha : isInf a = true) (hb : isInf b = true)
include ha hb

theorem fadd_inf_inf : fadd a b = if sign a != sign b then qnan else a := by
  simp [fadd, add, ha, hb, not_isNaN_of_isInf ha, not_isNaN_of_isInf hb]

theorem fsub_inf_inf : fsub a b = if sign a != sign b then a else qnan := by
  rw [fsub_eq_fadd_neg_of_not_isNaN a (not_isNaN_of_isInf hb), fadd_inf_inf ha ((isInf_neg b).trans hb), sign_neg]
  cases sign a <;> cases sign b <;> rfl

theorem fmul_inf_inf : fmul a b = inf (sign a != sign b) := by
  simp [fmul, mul, ha, hb, not_isNaN_of_isInf ha, not_isNaN_of_isInf hb]

theorem fdiv_inf_inf : fdiv a b = qnan := by
  simp [fdiv, div, ha, hb, not_isNaN_of_isInf ha, not_isNaN_of_isInf hb]

end InfInf

/-- A zero times an infinity, in either order. -/
theorem fmul_zero_inf {a b : Word} (ha : isZero a = true) (hb : isInf b = true) :
    fmul a b = qnan ∧ fmul b a = qnan := by
  have hfinite := isFinite_of_isZero ha
  rw [fmul_finite_inf hb hfinite, fmul_inf_finite hb hfinite, if_pos (valueRead_of_isZero ha)]
  exact ⟨rfl, rfl⟩

/-- The other infinity's word. -/
theorem inf_not (neg : Bool) : inf (!neg) = if neg then 0x7F800000#32 else 0xFF800000#32 := by
  cases neg <;> rfl

/-- Settles O29: one lemma for each class of operands. -/
theorem specialValues : Obligations.SpecialValues := by
  refine ⟨fun a b h => ⟨fadd_of_isNaN h, fsub_of_isNaN h, fmul_of_isNaN h, fdiv_of_isNaN h⟩,
    fadd_inf_inf (by decide) (by decide), fadd_inf_inf (by decide) (by decide), fun a b => fmul_zero_inf,
    fun a => fsub_self, fadd_of_isZero (by decide) (by decide), fadd_of_isZero (by decide) (by decide),
    fadd_of_isZero (by decide) (by decide), fun a b ha hb => ?_, fun a b ha hb => ?_⟩
  · exact ⟨fadd_inf_finite ha hb, fadd_finite_inf ha hb, fsub_inf_finite ha hb,
      (fsub_finite_inf ha hb).trans (inf_not _), fmul_inf_finite ha hb, fmul_finite_inf ha hb,
      fdiv_inf_finite ha hb, fdiv_finite_inf ha hb⟩
  · exact ⟨fadd_inf_inf ha hb, fsub_inf_inf ha hb, fmul_inf_inf ha hb, fdiv_inf_inf ha hb⟩

end Sys2Proof.Machine.Binary32
end

section
/-! PROOFS. The filter chain (spec 42_filter_chain.md R203–R208, R212, R224): which biquads are bypassed, what one biquad
does to its channel, and what a list of biquads keeps. -/

namespace Sys2Proof.Machine

/-! ### Bypass -/

/-- R206: ALL bypasses every biquad, the flag of a stage those of the stage, a sub-bypass flag one biquad of a cut. -/
theorem effBypass_iff (s : State) (b : Fin 11) : s.effBypass b = true ↔
    (s.actByp.getLsbD 0 = true
      ∨ (b.val ≤ 3 ∧ (s.actByp.getLsbD 1 = true ∨ s.actLcSub.getLsbD b.val = true))
      ∨ (b.val = 4 ∧ s.actByp.getLsbD 2 = true)
      ∨ (b.val = 5 ∧ s.actByp.getLsbD 3 = true)
      ∨ (b.val = 6 ∧ s.actByp.getLsbD 4 = true)
      ∨ (7 ≤ b.val ∧ (s.actByp.getLsbD 5 = true ∨ s.actHcSub.getLsbD (b.val - 7) = true))) := by
  simp only [State.effBypass, bypassed, Bool.or_eq_true, Bool.and_eq_true, decide_eq_true_eq, or_assoc,
    Nat.lt_succ_iff]

/-- Settles O30: the flags that `bypassed` reads, one disjunct for each. -/
theorem effectiveBypass : Obligations.EffectiveBypass := effBypass_iff

/-- R206: ALL bypasses every biquad. -/
theorem effBypass_of_all {s : State} (h : s.actByp.getLsbD 0 = true) (b : Fin 11) : s.effBypass b = true :=
  (effBypass_iff s b).mpr (.inl h)

/-! ### One biquad -/

/-- R203: a biquad stores its new S1 and S2. -/
theorem biquad_state_same (s : State) (b : Fin 11) (c : Chan) (x : Word) :
    ((biquad s b c x).1.ch c).biquads[b] = (biquadStep s.actCoef[b] (s.ch c).biquads[b] x).1 := by
  simp [biquad_fst]

/-- R203: a biquad leaves the state of every other one. -/
theorem biquad_state_other (s : State) {b b' : Fin 11} (h : b' ≠ b) (c : Chan) (x : Word) :
    ((biquad s b c x).1.ch c).biquads[b'] = (s.ch c).biquads[b'] := by
  rw [biquad_fst, State.setCh_ch_same]
  exact Vector.getElem_set_ne b.isLt b'.isLt fun hval => h (Fin.ext hval.symm)

/-- R203: a biquad changes only the biquad states of its channel. -/
theorem biquad_frame (s : State) (b : Fin 11) (c : Chan) (x : Word) :
    (biquad s b c x).1 = s.setCh c { s.ch c with biquads := ((biquad s b c x).1.ch c).biquads } := by
  rw [biquad_fst, State.setCh_ch_same]

/-- Settles O31: the first biquad of a list is passed by or runs, and the rest run on what it left. -/
theorem chainRunsRecurrence : Obligations.ChainRunsRecurrence := by
  intro s c b bs x
  refine ⟨rfl, rfl, fun h => chainOver_bypassed h c bs x, fun h => ?_⟩
  refine ⟨(biquad s b c x).1, (biquad s b c x).2, chainOver_active h c bs x, rfl, ?_, ?_,
    fun b' hb => biquad_state_other s hb c x, biquad_frame s b c x⟩
  · rw [biquad_state_same]
    rfl
  · rw [biquad_state_same]
    rfl

/-! ### Bypassed biquads -/

/-- R205, R208: a list of biquads holds the state of every bypassed one. -/
theorem chainOver_held (c : Chan) (bs : List (Fin 11)) {s : State} (x : Word) {b : Fin 11} (h : s.effBypass b = true) :
    ((chainOver c bs s x).1.ch c).biquads[b] = (s.ch c).biquads[b] := by
  induction bs generalizing s x with
  | nil => rfl
  | cons d ds ih =>
    cases hd : s.effBypass d with
    | true => rw [chainOver_bypassed hd, ih x h]
    | false =>
      have hne : b ≠ d := by
        rintro rfl
        exact absurd (h.symm.trans hd) (by decide)
      rw [chainOver_active hd, ih _ ((effBypass_biquad s d b c x).trans h), biquad_state_other s hne]

/-- R205, R207: a list of bypassed biquads is the identity. -/
theorem chainOver_of_all_bypassed (c : Chan) (bs : List (Fin 11)) {s : State} (x : Word)
    (h : ∀ b, s.effBypass b = true) : chainOver c bs s x = (s, x) := by
  induction bs with
  | nil => rfl
  | cons b bs ih => rw [chainOver_bypassed (h b), ih]

/-- Settles O32: bypassed biquads are passed by, and the chain's frame is that of its biquads. -/
theorem bypassedStateHeld : Obligations.BypassedStateHeld := fun s c x =>
  ⟨fun _ h => chainOver_held c biquadOrder x h, chain_frame s c x,
    fun h => chainOver_of_all_bypassed c biquadOrder x (effBypass_of_all h)⟩

/-! ### Two channels -/

/-- R224: a list of biquads does the same in two channels that hold the same states. -/
theorem chainOver_channels_agree {c d : Chan} (bs : List (Fin 11)) {s t : State} (x : Word)
    (hb : (s.ch c).biquads = (t.ch d).biquads) (hk : s.actCoef = t.actCoef)
    (he : ∀ b, s.effBypass b = t.effBypass b) :
    (chainOver c bs s x).2 = (chainOver d bs t x).2
      ∧ ((chainOver c bs s x).1.ch c).biquads = ((chainOver d bs t x).1.ch d).biquads := by
  induction bs generalizing s t x with
  | nil => exact ⟨rfl, hb⟩
  | cons b bs ih =>
    have het := he b
    cases h : s.effBypass b with
    | true =>
      rw [chainOver_bypassed h, chainOver_bypassed (het ▸ h)]
      exact ih x hb hk he
    | false =>
      have houtput : (biquad s b c x).2 = (biquad t b d x).2 := by rw [biquad_snd, biquad_snd, hb, hk]
      rw [chainOver_active h, chainOver_active (het ▸ h), houtput]
      refine ih _ ?_ ?_ fun b' => ?_
      · simp only [biquad_fst, State.setCh_ch_same, hb, hk]
      · simpa only [biquad_fst, State.setCh_actCoef] using hk
      · simpa only [effBypass_biquad] using he b'

/-- Settles O33: the chain of L in one state and of R in another. -/
theorem channelsAgree : Obligations.ChannelsAgree := by
  intro s t x hb hk hbyp hlc hhc
  refine chainOver_channels_agree (c := .L) (d := .R) biquadOrder x hb hk fun b => ?_
  simp only [State.effBypass, hbyp, hlc, hhc]

/-! ### A NaN in the state -/

/-- Settles O34: a NaN operand makes every sum, difference and product the canonical NaN, so it passes from S1 to the
output and from there to both new state variables. -/
theorem nanStateStays : Obligations.NanStateStays := by
  intro k st x h
  have houtput : (biquadStep k st x).2 = qnan := by
    show fadd _ st.s1 = qnan
    rw [h]
    exact Binary32.fadd_of_isNaN (.inr Binary32.isNaN_qnan)
  have hfeedback (u v : Word) : fsub u (fmul v (biquadStep k st x).2) = qnan := by
    rw [houtput, Binary32.fmul_of_isNaN (.inr Binary32.isNaN_qnan)]
    exact Binary32.fsub_of_isNaN (.inr Binary32.isNaN_qnan)
  refine ⟨houtput, ?_, hfeedback _ _⟩
  show fadd (fsub _ (fmul _ (biquadStep k st x).2)) _ = qnan
  rw [hfeedback]
  exact Binary32.fadd_of_isNaN (.inl Binary32.isNaN_qnan)

end Sys2Proof.Machine
end

section
/-! PROOFS. AUDIO's steps and blocks (spec 42_filter_chain.md R213, R222, R223, R226): what AUDIO_SAMPLE leaves in the
block buffers and the channels, what one step does inside a block, and runs of such steps. -/

namespace Sys2Proof.Machine

/-! ### AUDIO_DONE -/

/-- Settles O36: with every sample done AUDIO's turn is AUDIO_DONE. -/
theorem audioDoneStep : Obligations.AudioDoneStep := by
  intro s rest n hin hrun
  rw [step_turn hin]
  simp only [turn, audioTurn, hrun, lt_irrefl, if_false, if_true]
  rfl

/-! ### AUDIO_SAMPLE -/

/-- R55: the two channels' words of one index do not overlap, so writing one leaves the other. -/
theorem readWord_writeWord_bufAddr_other (draw : Nat → Byte) (m : Memory) {c d : Chan} (h : c ≠ d) (j : Nat)
    (v : Word) : Memory.readWord draw (Memory.writeWord m (bufAddr c j) v) (bufAddr d j)
      = Memory.readWord draw m (bufAddr d j) :=
  Memory.readWord_writeWord_outside draw m v (bufAddr_apart h.symm j)

/-- R222: L's part of AUDIO_SAMPLE leaves R's word. -/
theorem sampleChannel_L_bufWord_R (s : State) (j : Nat) : (sampleChannel s .L j).bufWord .R j = s.bufWord .R j := by
  have hepoch : (sampleChannel s .L j).epoch = s.epoch := by rw [sampleChannel_frame]; rfl
  rw [State.bufWord, hepoch, sampleChannel_buf]
  exact readWord_writeWord_bufAddr_other _ _ (by decide) j _

/-- R222: after L's part of AUDIO_SAMPLE the chain of R gives the same as before it. -/
theorem chain_R_after_L (s : State) (j : Nat) (x : Word) :
    (chain (sampleChannel s .L j) .R x).2 = (chain s .R x).2
      ∧ ((chain (sampleChannel s .L j) .R x).1.ch .R).biquads = ((chain s .R x).1.ch .R).biquads := by
  have hframe := sampleChannel_frame s .L j
  refine chain_congr x (by rw [sampleChannel_chR]) ?_ ?_ ?_ ?_ <;> (rw [hframe]; rfl)

/-- R222: AUDIO_SAMPLE writes L's result and R's result, nothing else, into the block buffers. -/
theorem audioSample_buf (s : State) (j n : Nat) : (audioSample s j n).buf
    = Memory.writeWord (Memory.writeWord s.buf (bufAddr .L j) (chain s .L (s.bufWord .L j)).2) (bufAddr .R j)
        (chain s .R (s.bufWord .R j)).2 := by
  show (sampleChannel (sampleChannel s .L j) .R j).buf = _
  rw [sampleChannel_buf, sampleChannel_buf, sampleChannel_L_bufWord_R, (chain_R_after_L s j _).1]

theorem audioSample_epoch (s : State) (j n : Nat) : (audioSample s j n).epoch = s.epoch := by
  rw [audioSample_eq]

/-- R222: the filtered samples stand where the samples stood. -/
theorem audioSample_bufWord (s : State) (c : Chan) (j n : Nat) :
    (audioSample s j n).bufWord c j = (chain s c (s.bufWord c j)).2 := by
  rw [State.bufWord, audioSample_epoch, audioSample_buf]
  cases c with
  | L => rw [readWord_writeWord_bufAddr_other _ _ (by decide), Memory.readWord_writeWord_same]
  | R => exact Memory.readWord_writeWord_same _ _ _ _

/-- R222: AUDIO_SAMPLE leaves every byte outside the two samples. -/
theorem audioSample_ramByte (s : State) {j a : Nat} (n : Nat)
    (h : ∀ c : Chan, a < bufAddr c j ∨ bufAddr c j + 4 ≤ a) : (audioSample s j n).ramByte a = s.ramByte a := by
  have hspec : (audioSample s j n).spec = s.spec := by rw [audioSample_eq]
  rw [State.ramByte, State.ramByte, audioSample_epoch, audioSample_buf, hspec,
    Memory.read_writeWord_outside _ _ _ (h .R), Memory.read_writeWord_outside _ _ _ (h .L)]

/-- R222: AUDIO_SAMPLE leaves the biquad states of each channel as the channel's chain does. -/
theorem audioSample_biquads (s : State) (c : Chan) (j n : Nat) :
    ((audioSample s j n).ch c).biquads = ((chain s c (s.bufWord c j)).1.ch c).biquads := by
  rw [audioSample_eq]
  cases c with
  | L => exact sampleChannel_biquads s .L j
  | R =>
    have h := sampleChannel_biquads (sampleChannel s .L j) .R j
    rw [sampleChannel_L_bufWord_R, (chain_R_after_L s j _).2] at h
    exact h

/-- The chain, then the tee of its result (R222): one channel's part of AUDIO_SAMPLE but for the block buffer. -/
def teeOfChain (s : State) (c : Chan) (x : Word) : State := fifoTee (chain s c x).1 c (chain s c x).2

theorem teeOfChain_frame (s : State) (c : Chan) (x : Word) :
    teeOfChain s c x
      = { s.setCh c ((teeOfChain s c x).ch c) with irqStatus := (teeOfChain s c x).irqStatus } := by
  rw [teeOfChain, fifoTee_frame, chain_frame]
  cases c <;> rfl

/-- R222: after L's chain and tee the chain of R gives the same as before them. -/
theorem chain_R_after_tee (s : State) (x y : Word) : (chain (teeOfChain s .L x) .R y).2 = (chain s .R y).2 := by
  refine (chain_congr y ?_ ?_ ?_ ?_ ?_).1 <;> (rw [teeOfChain_frame]; rfl)

/-- R222: what AUDIO_SAMPLE leaves in the channels and the events is what the two tees leave, L's and then R's. -/
theorem audioSample_tees (s : State) (j n : Nat) :
    (audioSample s j n).chL = (teeOfChain (teeOfChain s .L (s.bufWord .L j)) .R (s.bufWord .R j)).chL
      ∧ (audioSample s j n).chR = (teeOfChain (teeOfChain s .L (s.bufWord .L j)) .R (s.bufWord .R j)).chR
      ∧ (audioSample s j n).irqStatus
          = (teeOfChain (teeOfChain s .L (s.bufWord .L j)) .R (s.bufWord .R j)).irqStatus := by
  obtain ⟨hL, hirq⟩ : (sampleChannel s .L j).ch .L = (teeOfChain s .L (s.bufWord .L j)).ch .L
      ∧ (sampleChannel s .L j).irqStatus = (teeOfChain s .L (s.bufWord .L j)).irqStatus :=
    sampleChannel_tee j _ rfl rfl rfl rfl rfl rfl rfl rfl rfl
  have hsample := sampleChannel_frame s .L j
  have htee := teeOfChain_frame s .L (s.bufWord .L j)
  have hword := sampleChannel_L_bufWord_R s j
  rw [audioSample_eq]
  generalize sampleChannel s .L j = p at *
  generalize teeOfChain s .L (s.bufWord .L j) = u at *
  obtain ⟨hR, hirqR⟩ : (sampleChannel p .R j).ch .R = (teeOfChain u .R (s.bufWord .R j)).ch .R
      ∧ (sampleChannel p .R j).irqStatus = (teeOfChain u .R (s.bufWord .R j)).irqStatus := by
    refine sampleChannel_tee j _ hword ?_ ?_ ?_ ?_ ?_ ?_ hirq ?_ <;> (rw [hsample, htee]; rfl)
  refine ⟨?_, hR, hirqR⟩
  rw [teeOfChain_frame]
  exact hL

/-- R222: AUDIO_SAMPLE changes AUDIO's sequencer, the channels, the block buffers and the events. -/
theorem audioSample_frame (s : State) (j n : Nat) : audioSample s j n = { s with
    astate := .run (j + 1) n
    buf := (audioSample s j n).buf
    chL := (audioSample s j n).chL
    chR := (audioSample s j n).chR
    irqStatus := (audioSample s j n).irqStatus } := by
  rw [audioSample_eq]

/-- R222: in a block with samples left AUDIO's turn is AUDIO_SAMPLE. -/
theorem audioTurn_of_run {s : State} {j n : Nat} (h : s.astate = .run j n) (hj : j < n) :
    audioTurn s = audioSample s j n := by
  simp only [audioTurn, h, hj, if_true]

/-- What is to come does not enter one channel's part of AUDIO_SAMPLE. -/
theorem sampleChannel_withInputs (s : State) (c : Chan) (j : Nat) (l : List Input) :
    sampleChannel { s with inputs := l } c j = { sampleChannel s c j with inputs := l } := by
  have hword : State.bufWord { s with inputs := l } c j = s.bufWord c j := rfl
  have hch : State.ch { s with inputs := l } c = s.ch c := by cases c <;> rfl
  obtain ⟨hl, hlirq⟩ := sampleChannel_tee (s := { s with inputs := l }) (t := s) j _
    hword hch rfl rfl rfl rfl rfl rfl rfl
  obtain ⟨hs, hsirq⟩ := sampleChannel_tee (s := s) (t := s) (c := c) j _ rfl rfl rfl rfl rfl rfl rfl rfl rfl
  have hbuf : (sampleChannel { s with inputs := l } c j).buf = (sampleChannel s c j).buf := by
    rw [sampleChannel_buf, sampleChannel_buf, hword,
      (chain_congr (s := { s with inputs := l }) (t := s) _ (congrArg _ hch) rfl rfl rfl rfl).1]
  have hframe := sampleChannel_frame s c j
  rw [sampleChannel_frame, hl, ← hs, hlirq, ← hsirq, hbuf]
  generalize sampleChannel s c j = t at hframe ⊢
  rw [hframe]
  cases c <;> rfl

/-- What is to come does not enter AUDIO_SAMPLE. -/
theorem audioSample_withInputs (s : State) (j n : Nat) (l : List Input) :
    audioSample { s with inputs := l } j n = { audioSample s j n with inputs := l } := by
  simp only [audioSample, sampleChannel_withInputs]

/-- R222: of a channel AUDIO_SAMPLE changes the biquad states and the producer's part of the FIFO. -/
theorem audioSample_channel (s : State) (c : Chan) {j n : Nat} (h : s.astate = .run j n) (hj : j < n) :
    (audioSample s j n).ch c = { s.ch c with
      biquads := ((audioSample s j n).ch c).biquads, stg := ((audioSample s j n).ch c).stg
      sidx := ((audioSample s j n).ch c).sidx, slot := ((audioSample s j n).ch c).slot
      wptr := ((audioSample s j n).ch c).wptr, dropCnt := ((audioSample s j n).ch c).dropCnt } := by
  rw [← audioTurn_of_run h hj]
  exact audioTurn_channel s c

/-- Settles O35: AUDIO_SAMPLE's buffers, biquad states, tees and frame. -/
theorem audioSampleStep : Obligations.AudioSampleStep := by
  intro s rest j n hin hrun hj yL yR u w
  have hstep : step s = .next { audioSample s j n with inputs := rest } := by
    rw [step_turn hin, ← audioSample_withInputs]
    exact congrArg _ (audioTurn_of_run hrun hj)
  have hw : teeOfChain (teeOfChain s .L (s.bufWord .L j)) .R (s.bufWord .R j) = w :=
    congrArg (fifoTee _ .R) (chain_R_after_tee s _ _)
  obtain ⟨hchL, hchR, hirq⟩ := audioSample_tees s j n
  rw [hw] at hchL hchR hirq
  have hbufWord := audioSample_bufWord s (j := j) (n := n)
  have hramByte (a : Nat) := audioSample_ramByte s (j := j) (a := a) n
  have hbiquads := audioSample_biquads s (j := j) (n := n)
  have hchannel (c : Chan) := audioSample_channel s c hrun hj
  have hframe := audioSample_frame s j n
  generalize audioSample s j n = t at *
  refine ⟨{ t with inputs := rest }, hstep, hbufWord .L, hbufWord .R, hramByte, hbiquads .L, hbiquads .R,
    fun c => ?_, ?_⟩
  · cases c with
    | L => exact hchannel .L
    | R => exact hchannel .R
  · rw [← hchL, ← hchR, ← hirq]
    exact congrArg (fun x : State => { x with inputs := rest }) hframe

/-! ### One step inside a block -/

/-- R226: inside a block a step of HOST or of another agent leaves AUDIO's sequencer and BLK_CNT, and a turn of AUDIO
is AUDIO_SAMPLE. -/
theorem step_in_block {s : State} {j n : Nat} {i : Input} {rest : List Input} (hrun : s.astate = .run j n)
    (hin : s.inputs = i :: rest) (hreset : i ≠ .reset) (hleft : j + [i].count (.turn .audio) ≤ n) :
    ∃ t, step s = .next t ∧ t.astate = .run (j + [i].count (.turn .audio)) n ∧ t.blkCnt = s.blkCnt
      ∧ t.inputs = rest := by
  cases i with
  | reset => exact absurd rfl hreset
  | bus op =>
    obtain ⟨t, ht, heffect⟩ := exec_effect (fetched op) { s with inputs := rest }
    have hbusy : s.astate ≠ .idle := by simp [hrun]
    obtain ⟨hastate, hblk⟩ := heffect.astate_of_busy hbusy
    exact ⟨t, (step_bus hin).trans ht, hastate.trans hrun, hblk, heffect.rstate_inputs.2⟩
  | turn a =>
    by_cases ha : a = .audio
    · subst ha
      rw [List.count_singleton_self] at hleft ⊢
      obtain ⟨hastate, hblk⟩ := turn_audio_sample (s := { s with inputs := rest }) hrun (by omega)
      exact ⟨_, step_turn hin, hastate, hblk, turn_inputs .audio _⟩
    · rw [List.count_eq_zero_of_not_mem (by simpa using Ne.symm ha), Nat.add_zero]
      obtain ⟨hastate, hblk⟩ := turn_astate_of_other ha { s with inputs := rest }
      exact ⟨_, step_turn hin, hastate.trans hrun, hblk, turn_inputs a _⟩

/-! ### Blocks -/

/-- R226: a run of inputs without a reset inside a block, no more turns of AUDIO among them than samples are left. -/
theorem run_in_block (between : List Input) {s : State} {j n : Nat} {rest : List Input} (hrun : s.astate = .run j n)
    (hin : s.inputs = between ++ rest) (hreset : .reset ∉ between) (hleft : j + between.count (.turn .audio) ≤ n) :
    ∃ t, Sys2Proof.core.run between.length s = .next t ∧ t.astate = .run (j + between.count (.turn .audio)) n
      ∧ t.blkCnt = s.blkCnt ∧ t.inputs = rest := by
  induction between generalizing s j with
  | nil => exact ⟨s, rfl, hrun, rfl, hin⟩
  | cons i is ih =>
    obtain ⟨hne, hnot⟩ := List.ne_and_not_mem_of_not_mem_cons hreset
    have hcount : (i :: is).count (.turn .audio) = [i].count (.turn .audio) + is.count (.turn .audio) :=
      List.count_append (l₁ := [i])
    rw [hcount, ← Nat.add_assoc] at hleft ⊢
    obtain ⟨t, hstep, ht, htblk, htin⟩ := step_in_block hrun hin hne.symm (by omega)
    obtain ⟨u, hruns, hu, hublk, huin⟩ := ih ht htin hnot hleft
    exact ⟨u, (run_step _ hstep).trans hruns, hu, hublk.trans htblk, huin⟩

/-- Settles O37: the samples by induction on the inputs in between, then AUDIO_DONE. -/
theorem blockTakesBoundedTurns : Obligations.BlockTakesBoundedTurns := by
  intro s n between rest hrun hin hreset hcount
  obtain ⟨t, hruns, ht, htblk, htin⟩ := run_in_block between hrun hin hreset (by omega)
  rw [Nat.zero_add] at ht
  refine ⟨⟨t, hruns, ht, htblk, htin⟩, fun rest' hrest hn => ?_⟩
  rw [hn] at ht
  rw [hrest] at htin
  obtain ⟨hidle, hblk⟩ := turn_audio_done (s := { t with inputs := rest' }) ht
  exact ⟨_, run_then_step _ s t _ hruns (step_turn htin), hidle, hblk.trans (congrArg (· + 1) htblk),
    turn_inputs .audio _⟩

/-! ### The active set -/

/-- The active coefficients, bypass flags and sub-bypass vectors of two states are the same. -/
def SameActiveSet (s t : State) : Prop :=
  t.actCoef = s.actCoef ∧ t.actByp = s.actByp ∧ t.actLcSub = s.actLcSub ∧ t.actHcSub = s.actHcSub

/-- R52, R53: no store of a location reaches the active set. -/
theorem writeRegion_activeSet (s : State) (r : Region) (v : Word) : SameActiveSet s (s.writeRegion r v) := by
  cases r with
  | ctrl r =>
    cases r with
    | dbFloor => simp only [State.writeRegion, State.writeReg]; split <;> exact ⟨rfl, rfl, rfl, rfl⟩
    | _ => exact ⟨rfl, rfl, rfl, rfl⟩
  | _ => exact ⟨rfl, rfl, rfl, rfl⟩

/-- R213: only PREPARE and PROCESS, both refused while AUDIO is in a block, set the active set. -/
theorem HostEffect.activeSet_of_busy {s t : State} (h : HostEffect s t) (busy : s.astate ≠ .idle) :
    SameActiveSet s t := by
  cases h with
  | prepare idle legal => exact absurd (engineActive_eq_false.mp idle).1 busy
  | process n prepared idle fits => simp [State.busyA, busy] at idle
  | setCut cut x => cases cut <;> exact ⟨rfl, rfl, rfl, rfl⟩
  | read a ok => unfold readSideEffect; split <;> exact ⟨rfl, rfl, rfl, rfl⟩
  | write a v ok notCmd => exact writeRegion_activeSet s _ v
  | _ => exact ⟨rfl, rfl, rfl, rfl⟩

/-- R213: no agent's turn changes the active set. -/
theorem turn_activeSet (a : Agent) (s : State) : SameActiveSet s (turn a s) := by
  cases a with
  | audio => simp only [turn]; rw [audioTurn_frame]; exact ⟨rfl, rfl, rfl, rfl⟩
  | render => simp only [turn]; rw [renderTurn_frame]; exact ⟨rfl, rfl, rfl, rfl⟩
  | timer => simp only [turn]; rw [timerTurn_frame]; exact ⟨rfl, rfl, rfl, rfl⟩
  | syncW c v => simp only [turn]; rw [syncWTurn_frame]; cases c <;> exact ⟨rfl, rfl, rfl, rfl⟩
  | syncR c v => simp only [turn]; rw [syncRTurn_frame]; cases c <;> exact ⟨rfl, rfl, rfl, rfl⟩

/-- Settles O38: the step is an operation of HOST or a turn. -/
theorem activeSetConstantDuringBlock : Obligations.ActiveSetConstantDuringBlock := by
  intro s t busy h hreset
  cases step_next h with
  | host op rest hin t run => exact (exec_next run).activeSet_of_busy busy
  | agent a rest hin => exact turn_activeSet a { s with inputs := rest }
  | reset rest hin => exact absurd hin (hreset rest)
  | free hin => exact turn_activeSet _ { s with clock := s.clock + 1 }

end Sys2Proof.Machine
end

section
/-! PROOFS. The occupancy of the FIFOs (spec 43_channel_fifo.md R241–R245, R252, R253, R256): which agent moves which
pointer or view, how far, and that the bounds survive it. -/

namespace Sys2Proof.Machine

/-! ### Occupancy bounds (R244, R256) -/

/-- What WPTR may be after AUDIO's part of a step: a push that finds room for the producer moves it on by 1 (R241). -/
def Channel.mayPushTo (x : Channel) (w : Ptr) : Prop := w = x.wptr ∨ x.occW < Config.cap ∧ w = x.wptr + 1

/-- What RPTR may be after RENDER's part of a step: a pull of a frame the consumer sees moves it on by 1 (R245). -/
def Channel.mayPullTo (x : Channel) (r : Ptr) : Prop := r = x.rptr ∨ x.pullable = true ∧ r = x.rptr + 1

/-- The bounds with the differences mod 60 written out. -/
theorem Channel.occupancyBounded_iff (x : Channel) : x.occupancyBounded ↔
    (60 - x.rptr.val + x.wview.val) % 60 ≤ (60 - x.rptr.val + x.wptr.val) % 60
      ∧ (60 - x.rptr.val + x.wptr.val) % 60 ≤ (60 - x.rview.val + x.wptr.val) % 60
      ∧ (60 - x.rview.val + x.wptr.val) % 60 ≤ 30 := Iff.rfl

/-- R241, R244: a push raises occ and occ_w by 1, and occ_w was below 30. -/
theorem Channel.occupancyBounded.push {x : Channel} (h : x.occupancyBounded) {w : Ptr} (hw : x.mayPushTo w) :
    { x with wptr := w }.occupancyBounded := by
  rcases hw with rfl | ⟨hroom, rfl⟩
  · exact h
  · rw [Channel.occupancyBounded_iff] at h ⊢
    simp only [Channel.occW, ptr_sub_val, ptr_succ_val, Config.cap] at hroom ⊢
    omega

/-- R244, R245: a pull lowers occ_r and occ by 1, and occ_r was not 0. -/
theorem Channel.occupancyBounded.pull {x : Channel} (h : x.occupancyBounded) {r : Ptr} (hr : x.mayPullTo r) :
    { x with rptr := r }.occupancyBounded := by
  rcases hr with rfl | ⟨hsome, rfl⟩
  · exact h
  · rw [Channel.occupancyBounded_iff] at h ⊢
    simp only [Channel.pullable, decide_eq_true_eq, ne_eq, Fin.ext_iff, ptr_succ_val] at hsome ⊢
    omega

/-- R244, R252: a delivery of SYNC_W raises occ_r, to occ at most. -/
theorem Channel.occupancyBounded.deliverW {x : Channel} (h : x.occupancyBounded) {v : Ptr}
    (hv : viewMayBe x.wview x.wptr v = true) : { x with wview := v }.occupancyBounded := by
  rw [Channel.occupancyBounded_iff] at h ⊢
  simp only [viewMayBe, decide_eq_true_eq, ptr_sub_val] at hv ⊢
  omega

/-- R244, R253: a delivery of SYNC_R lowers occ_w, to occ at least. -/
theorem Channel.occupancyBounded.deliverR {x : Channel} (h : x.occupancyBounded) {v : Ptr}
    (hv : viewMayBe x.rview x.rptr v = true) : { x with rview := v }.occupancyBounded := by
  rw [Channel.occupancyBounded_iff] at h ⊢
  simp only [viewMayBe, decide_eq_true_eq, ptr_sub_val] at hv ⊢
  omega

/-! ### What moves a pointer -/

/-- R241: a push that finds room moves WPTR, a refused one does not. -/
theorem pushFrame_wptr (s : State) (c : Chan) : (s.ch c).mayPushTo ((pushFrame s c).ch c).wptr := by
  unfold pushFrame
  dsimp only
  split
  · rename_i hroom
    exact .inr ⟨hroom, by simp⟩
  · exact .inl (by simp)

theorem fifoTee_wptr (s : State) (c : Chan) (y : Word) : (s.ch c).mayPushTo ((fifoTee s c y).ch c).wptr := by
  unfold fifoTee
  dsimp only
  split
  · have h := pushFrame_wptr (stageSample s c y) c
    rw [stageSample_eq, State.setCh_ch_same] at h
    exact h
  · exact .inl (by simp [stageSample_eq])

theorem sampleChannel_wptr (s : State) (c : Chan) (j : Nat) :
    (s.ch c).mayPushTo ((sampleChannel s c j).ch c).wptr := by
  have h := fifoTee_wptr ((chain s c (s.bufWord c j)).1.setBufWord c j (chain s c (s.bufWord c j)).2) c
    (chain s c (s.bufWord c j)).2
  rw [← sampleChannel_eq, State.setBufWord_ch, chain_frame, State.setCh_ch_same] at h
  exact h

/-- R222, R241: a turn of AUDIO pushes at most one frame into each FIFO. -/
theorem audioTurn_wptr (s : State) (c : Chan) : (s.ch c).mayPushTo ((audioTurn s).ch c).wptr := by
  unfold audioTurn
  split
  · exact .inl rfl
  · rename_i j n _
    split
    · rw [audioSample_eq]
      cases c with
      | L => exact sampleChannel_wptr s .L j
      | R =>
        have h := sampleChannel_wptr (sampleChannel s .L j) .R j
        rw [sampleChannel_chR] at h
        exact h
    · split <;> exact .inl (by cases c <;> rfl)

/-- R245, R272: a turn of RENDER pulls at most one frame. -/
theorem renderTurn_rptr (s : State) (d : Chan) : (s.ch d).mayPullTo ((renderTurn s).ch d).rptr := by
  unfold renderTurn
  split
  · split <;> exact .inl (by cases d <;> rfl)
  · rename_i c left _
    split
    · rename_i h
      rw [renderPull_eq s c left h.2]
      by_cases hd : d = c
      · subst hd
        exact .inr ⟨h.2, by cases d <;> rfl⟩
      · exact .inl (by cases d <;> exact congrArg Channel.rptr (State.setCh_ch_other s hd _))
    · exact .inl (by cases c <;> cases d <;> rfl)
  · rename_i c left _
    exact .inl (by cases c <;> cases d <;> rfl)

/-! ### Every step keeps the bounds -/

theorem fifosBounded_iff (s : State) : s.FifosBounded ↔ ∀ c, (s.ch c).occupancyBounded :=
  ⟨fun h c => h.channel c, fun h => ⟨h .L, h .R⟩⟩

/-- Setting a channel to one that meets the bounds leaves both FIFOs within them. -/
theorem State.FifosBounded.setCh {s : State} (h : s.FifosBounded) {c : Chan} {x : Channel} (hx : x.occupancyBounded) :
    (s.setCh c x).FifosBounded := by
  obtain ⟨hL, hR⟩ := h
  cases c with
  | L => exact ⟨hx, hR⟩
  | R => exact ⟨hL, hx⟩

/-- A turn keeps the bounds: each agent moves one pointer or one view of a channel, and only as far as the others let
it. -/
theorem turn_fifosBounded (a : Agent) (s : State) (h : s.FifosBounded) : (turn a s).FifosBounded := by
  cases a with
  | audio =>
    rw [fifosBounded_iff]
    intro c
    simp only [turn]
    rw [audioTurn_channel]
    exact (h.channel c).push (audioTurn_wptr s c)
  | render =>
    rw [fifosBounded_iff]
    intro c
    simp only [turn]
    rw [renderTurn_channel]
    exact (h.channel c).pull (renderTurn_rptr s c)
  | timer =>
    simp only [turn]
    rw [timerTurn_frame]
    exact h
  | syncW c v =>
    simp only [turn, syncWTurn]
    split
    · rename_i hv
      exact h.setCh ((h.channel c).deliverW hv)
    · exact h
  | syncR c v =>
    simp only [turn, syncRTurn]
    split
    · rename_i hv
      exact h.setCh ((h.channel c).deliverR hv)
    · exact h

/-- R136: an operation of HOST leaves the FIFOs, but that PREPARE empties them. -/
theorem HostEffect.fifosBounded {s t : State} (hs : s.FifosBounded) (h : HostEffect s t) : t.FifosBounded := by
  rw [fifosBounded_iff]
  intro c
  rcases h.channels with hsame | ⟨-, hprepared⟩
  · rw [hsame]
    exact hs.channel c
  · rw [hprepared, Channel.occupancyBounded_iff]
    simp

/-- Settles O40: a step is an operation of HOST, a turn, which moves a pointer towards the one it follows and never past
it, or the reset input, which empties both FIFOs. -/
theorem stepKeepsFifosBounded : Obligations.StepKeepsFifosBounded := fun _ _ hs h =>
  invariant_of_effects (P := State.FifosBounded) (fun _ _ _ h => h) (fun _ _ h he => he.fifosBounded h)
    turn_fifosBounded (fun _ => reset_fifosBounded) hs h

/-! ### Synchronisers (R252, R253) -/

/-- Settles O43: a turn of a synchroniser is its delivery, guarded by `viewMayBe`. -/
theorem synchronisersMoveForward : Obligations.SynchronisersMoveForward := by
  intro s rest c v
  have hch : ({ s with inputs := rest } : State).ch c = s.ch c := by cases c <;> rfl
  refine ⟨fun hin => ?_, fun hin => ?_⟩
  · rw [step_turn hin]
    simp only [turn, syncWTurn, viewMayBe, hch, decide_eq_true_eq]
  · rw [step_turn hin]
    simp only [turn, syncRTurn, viewMayBe, hch, decide_eq_true_eq]

end Sys2Proof.Machine
end

section
/-! PROOFS. The frames in the channels' RAMs (spec 43_channel_fifo.md R241, R245; 44_fft_engine.md R272): what the tee
leaves in the staging frame and in the slot it fills, what R_PULL leaves in the rolling buffer. -/

namespace Sys2Proof.Machine

/-! ### The tee (R241) -/

/-- R241: the sample stands at the staging index, every other staged word stays. -/
theorem stageSample_stgWord (s : State) (c : Chan) (y : Word) (i : Nat) :
    (stageSample s c y).stgWord c i = if i = (s.ch c).sidx.toNat then y else s.stgWord c i := by
  simp only [stageSample_eq, State.stgWord, State.setCh_ch_same, State.setCh_epoch]
  split
  · rename_i h
    rw [h, Ram.read_write_same]
  · rename_i h
    exact Ram.read_write_other _ _ h y

/-- R241: a push takes the staged words along and leaves them. -/
theorem pushFrame_stgWord (s : State) (c : Chan) (i : Nat) : (pushFrame s c).stgWord c i = s.stgWord c i := by
  have hstg : ((pushFrame s c).ch c).stg = (s.ch c).stg := by rw [pushFrame_channel]
  have hepoch : (pushFrame s c).epoch = s.epoch := by rw [pushFrame_frame, State.setCh_epoch]
  rw [State.stgWord, State.stgWord, hstg, hepoch]

/-- R241: whatever becomes of the frame, the tee stages the sample. -/
theorem fifoTee_stgWord (s : State) (c : Chan) (y : Word) (i : Nat) :
    (fifoTee s c y).stgWord c i = if i = (s.ch c).sidx.toNat then y else s.stgWord c i := by
  rw [← stageSample_stgWord]
  unfold fifoTee
  dsimp only
  split
  · exact pushFrame_stgWord _ c i
  · rfl

/-- R241: a push that finds room writes the staged frame into the slot of WPTR. -/
theorem pushFrame_of_room {s : State} {c : Chan} (h : (s.ch c).occW < Config.cap) :
    pushFrame s c = s.setCh c { s.ch c with
      slot := (s.ch c).slot.writeList (slotIndex (slotOf (s.ch c).wptr) 0) (s.stagedFrame c s.actFrameSize.toNat)
      wptr := (s.ch c).wptr + 1
      sidx := 0 } := by
  simp only [pushFrame, h, if_true]

/-- R241, R311: a push that finds no room is counted and announced. -/
theorem pushFrame_of_full {s : State} {c : Chan} (h : ¬(s.ch c).occW < Config.cap) :
    pushFrame s c = { s.setCh c { s.ch c with dropCnt := (s.ch c).dropCnt + 1, sidx := 0 } with
      irqStatus := s.irqStatus ||| 0b010000#6 } := by
  simp only [pushFrame, h, if_false]
  cases c <;> rfl

/-- R241: the slot of a push that finds room holds the staged frame. -/
theorem pushFrame_slotWord_pushed {s : State} {c : Chan} (h : (s.ch c).occW < Config.cap) {i : Nat}
    (hi : i < s.actFrameSize.toNat) : (pushFrame s c).slotWord c (slotOf (s.ch c).wptr) i = s.stgWord c i := by
  have hindex : slotIndex (slotOf (s.ch c).wptr) i - slotIndex (slotOf (s.ch c).wptr) 0 = i := by
    simp [slotIndex]
  simp only [pushFrame_of_room h, State.slotWord, State.setCh_ch_same, State.setCh_epoch]
  rw [Ram.read_writeList, if_pos (by simp [slotIndex]), hindex]
  simp [State.stagedFrame, hi]

section Tee

variable {s : State} {c : Chan} (hsidx : (s.ch c).sidx.toNat < s.actFrameSize.toNat)
  (hframe : s.actFrameSize.toNat ≤ 8192)
include hsidx hframe

/-- R56, R241: inside a frame the staging index does not wrap. -/
theorem stageSample_sidx (y : Word) : ((stageSample s c y).ch c).sidx.toNat = (s.ch c).sidx.toNat + 1 := by
  rw [stageSample_eq, State.setCh_ch_same, BitVec.toNat_add]
  exact Nat.mod_eq_of_lt (Nat.lt_of_le_of_lt (Nat.succ_le_of_lt hsidx) (by omega))

/-- R241: a sample that does not fill the frame is only staged. -/
theorem fifoTee_of_unfilled (y : Word) (h : (s.ch c).sidx.toNat + 1 < s.actFrameSize.toNat) :
    fifoTee s c y = stageSample s c y := by
  unfold fifoTee
  dsimp only
  rw [stageSample_sidx hsidx hframe, if_neg (by omega)]

/-- R241: a sample that fills the frame has it pushed. -/
theorem fifoTee_of_filled (y : Word) (h : (s.ch c).sidx.toNat + 1 = s.actFrameSize.toNat) :
    fifoTee s c y = pushFrame (stageSample s c y) c := by
  unfold fifoTee
  dsimp only
  rw [stageSample_sidx hsidx hframe, if_pos h]

end Tee

/-- Staging moves no pointer, so the push that follows finds the room there was (R242). -/
theorem stageSample_occW (s : State) (c : Chan) (y : Word) :
    ((stageSample s c y).ch c).occW = ((s.ch c).wptr - (s.ch c).rview).val := by
  rw [stageSample_eq, State.setCh_ch_same]
  rfl

/-- Settles O39: the frame is unfilled, or filled with room for a push, or filled without. -/
theorem teeStagesAndPushes : Obligations.TeeStagesAndPushes := by
  intro s c y hsidx hframe t
  refine ⟨fifoTee_stgWord s c y, fun hunfilled => ?_, fun hfilled hroom => ?_, fun hfilled hroom => ?_⟩
  · have ht : t = stageSample s c y := fifoTee_of_unfilled hsidx hframe y hunfilled
    rw [ht]
    refine ⟨stageSample_sidx hsidx hframe y, ?_⟩
    rw [stageSample_eq, State.setCh_ch_same]
  · have hocc : ((stageSample s c y).ch c).occW < Config.cap := (stageSample_occW s c y).trans_lt hroom
    have ht : t = pushFrame (stageSample s c y) c := fifoTee_of_filled hsidx hframe y hfilled
    have hpush := ht.trans (pushFrame_of_room hocc)
    have hwptr : ((stageSample s c y).ch c).wptr = (s.ch c).wptr := by rw [stageSample_eq, State.setCh_ch_same]
    refine ⟨?_, ?_, fun i hi => ?_, fun k i hk hi => ?_, ?_⟩
    · rw [hpush, State.setCh_ch_same]
    · rw [hpush, State.setCh_ch_same, hwptr]
    · rw [ht, pushFrame_stgWord, ← pushFrame_slotWord_pushed hocc (by simpa [stageSample_eq] using hi), hwptr]
      rfl
    · exact fifoTee_slotWord hframe hi (fun _ => hk) y
    · rw [hpush, stageSample_eq]
      simp
  · have hocc : ¬((stageSample s c y).ch c).occW < Config.cap := by rwa [stageSample_occW]
    have ht : t = pushFrame (stageSample s c y) c := fifoTee_of_filled hsidx hframe y hfilled
    rw [ht, pushFrame_of_full hocc, stageSample_eq]
    cases c <;> exact ⟨rfl, rfl, rfl⟩

/-! ### R_PULL (R272) -/

theorem shiftedRoll_length (s : State) (c : Chan) :
    (s.shiftedRoll c).length = s.actFftSize.toNat - s.actFrameSize.toNat := by
  simp [State.shiftedRoll]

section Pull

variable {s : State} {c : Chan} (hpull : (s.ch c).pullable = true) (left : Nat)
include hpull

/-- R272: R_PULL writes the shifted words and the pulled frame from index 0 up. -/
theorem renderPull_rollWord (i : Nat) : (renderPull s c left).rollWord c i
    = ((s.shiftedRoll c ++ s.pulledFrame c)[i]?).getD (s.rollWord c i) := by
  have hch : (renderPull s c left).ch c = { s.ch c with
      rptr := (s.ch c).rptr + 1
      roll := (s.ch c).roll.writeList 0 (s.shiftedRoll c ++ s.pulledFrame c) } := by
    rw [renderPull_eq s c left hpull]
    cases c <;> rfl
  have hepoch : (renderPull s c left).epoch = s.epoch := by
    rw [renderPull_eq s c left hpull]
    exact State.setCh_epoch s c _
  rw [State.rollWord, hch, hepoch, Ram.read_writeList, if_pos (Nat.zero_le i)]
  rfl

/-- R272: the words from F up move down by F. -/
theorem renderPull_rollWord_shifted {i : Nat} (hi : i < s.actFftSize.toNat - s.actFrameSize.toNat) :
    (renderPull s c left).rollWord c i = s.rollWord c (i + s.actFrameSize.toNat) := by
  rw [renderPull_rollWord hpull, List.getElem?_append_left (by rwa [shiftedRoll_length])]
  simp [State.shiftedRoll, hi]

/-- R245, R272: the last F words are those of the slot that RPTR named. -/
theorem renderPull_rollWord_appended {i : Nat} (hi : i < s.actFrameSize.toNat) :
    (renderPull s c left).rollWord c (s.actFftSize.toNat - s.actFrameSize.toNat + i)
      = s.slotWord c (slotOf (s.ch c).rptr) i := by
  rw [renderPull_rollWord hpull, List.getElem?_append_right (by rw [shiftedRoll_length]; exact Nat.le_add_right _ _),
    shiftedRoll_length, Nat.add_sub_cancel_left]
  simp [State.pulledFrame, hi]

end Pull

/-- R272: with a frame left to pull and one to be seen RENDER's turn is R_PULL. -/
theorem renderTurn_of_pull {s : State} {c : Chan} {left : Nat} (hr : s.rstate = .pull c left) (hleft : 0 < left)
    (hpull : (s.ch c).pullable = true) : renderTurn s = renderPull s c left := by
  simp only [renderTurn, hr, hleft, hpull, and_self, if_true]

/-- What is to come does not enter R_PULL. -/
theorem renderPull_withInputs {s : State} {c : Chan} (hpull : (s.ch c).pullable = true) (left : Nat) (l : List Input) :
    renderPull { s with inputs := l } c left = { renderPull s c left with inputs := l } := by
  rw [renderPull_eq s c left hpull, renderPull_eq { s with inputs := l } c left (by cases c <;> exact hpull)]
  cases c <;> rfl

/-- Settles O47: RENDER's turn is R_PULL, which writes the rolling buffer from index 0 to N − 1. -/
theorem pullSlidesRollingBuffer : Obligations.PullSlidesRollingBuffer := by
  intro s rest c left hin hr hleft hne _
  have hpull : (s.ch c).pullable = true := decide_eq_true hne
  have hstep : step s = .next { renderPull s c left with inputs := rest } := by
    have hpull' : (({ s with inputs := rest } : State).ch c).pullable = true := by cases c <;> exact hpull
    rw [step_turn hin, ← renderPull_withInputs hpull]
    exact congrArg _ (renderTurn_of_pull hr hleft hpull')
  have hroll (i : Nat) : State.rollWord { renderPull s c left with inputs := rest } c i
      = (renderPull s c left).rollWord c i := by cases c <;> rfl
  refine ⟨_, hstep, ?_, ?_, fun i hi => ?_, fun i hi => ?_, ?_⟩
  · rw [renderPull_eq s c left hpull]
  · rw [renderPull_eq s c left hpull]
    cases c <;> rfl
  · rw [hroll, renderPull_rollWord_shifted hpull left hi]
  · rw [hroll, renderPull_rollWord_appended hpull left hi]
    rfl
  · rw [renderPull_eq s c left hpull]
    cases c <;> rfl

end Sys2Proof.Machine
end

section
/-! PROOFS. The Gray code of a pointer (spec 43_channel_fifo.md R248). -/

namespace Sys2Proof.Machine

/-- `bin` undoes `gray`. -/
theorem grayBin_gray (v : BitVec 6) : grayBin (gray v) = v := by
  revert v
  decide

/-- `gray` undoes `bin`. -/
theorem gray_grayBin (g : BitVec 6) : gray (grayBin g) = g := by
  revert g
  decide

theorem grayBin_grayCode_toNat (p : Ptr) : (grayBin (grayCode p)).toNat = p.val + 2 := by
  rw [grayCode, grayBin_gray, BitVec.toNat_ofNat, Config.grayOffset]
  omega

/-- A code decodes to the pointer two below its binary value. -/
theorem grayDecode_eq_some_iff (g : BitVec 6) (p : Ptr) : grayDecode g = some p ↔ (grayBin g).toNat = p.val + 2 := by
  unfold grayDecode
  dsimp only
  split
  · rename_i hsome
    simp only [Option.some_inj, Fin.ext_iff, Config.grayOffset] at hsome ⊢
    omega
  · rename_i hnone
    have := p.isLt
    simp only [reduceCtorEq, false_iff, Config.grayOffset] at hnone ⊢
    omega

/-- A word whose binary value is no pointer's is not driven. -/
theorem grayCode_ne {g : BitVec 6} (h : (grayBin g).toNat < 2 ∨ 61 < (grayBin g).toNat) (p : Ptr) :
    grayCode p ≠ g := by
  rintro rfl
  rw [grayBin_grayCode_toNat] at h
  omega

/-- R248: the codes of the 60 pointers are a cycle in which one bit changes at a time. -/
theorem grayCode_succ (p : Ptr) : ∃ i < 6, grayCode p ^^^ grayCode (p + 1) = BitVec.twoPow 6 i := by
  revert p
  decide

/-- Settles O42: `bin` is the inverse of `gray`, and the pointers have the binary values 2..61. -/
theorem grayCodeCycle : Obligations.GrayCodeCycle := by
  intro p
  refine ⟨rfl, grayCode_succ p, fun g => ?_, grayCode_ne (by decide) p, grayCode_ne (by decide) p,
    grayCode_ne (by decide) p, grayCode_ne (by decide) p⟩
  rw [grayDecode_eq_some_iff, ← grayBin_grayCode_toNat]
  refine ⟨fun h => ?_, fun h => h ▸ rfl⟩
  rw [← gray_grayBin g, BitVec.eq_of_toNat_eq h, gray_grayBin]

end Sys2Proof.Machine
end

section
/-! PROOFS. The OPEN functions of the FFT engine and the published bins (spec 44_fft_engine.md R276, R280, R283–R287):
the order of binary32 words, the words that DB20 answers, and what silence becomes. -/

namespace Sys2Proof.Machine

namespace Binary32

/-! ### The order of words (R286) -/

theorem orderKey_eq (w : Word) :
    orderKey w = if sign w then -((w.toNat % 2 ^ 31 : ℕ) : ℤ) else (w.toNat % 2 ^ 31 : ℕ) := by
  rw [orderKey, BitVec.extractLsb'_toNat, Nat.shiftRight_zero]

theorem orderKey_nonneg {w : Word} (h : sign w = false) : 0 ≤ orderKey w := by
  rw [orderKey_eq, h]
  exact Int.natCast_nonneg _

/-- Between finite words `lt` is the order of the keys. -/
theorem lt_iff_of_isFinite {a b : Word} (ha : isFinite a = true) (hb : isFinite b = true) :
    lt a b = true ↔ orderKey a < orderKey b := by
  simp [lt, not_isNaN_of_isFinite ha, not_isNaN_of_isFinite hb]

theorem lt_eq_false_iff_of_isFinite {a b : Word} (ha : isFinite a = true) (hb : isFinite b = true) :
    lt a b = false ↔ orderKey b ≤ orderKey a := by
  rw [← Bool.not_eq_true, lt_iff_of_isFinite ha hb, not_lt]

theorem lt_self (a : Word) : lt a a = false := by simp [lt]

/-- A word above zero has its own bits as its key. -/
theorem orderKey_of_pos {w : Word} (h : 0 < orderKey w) : orderKey w = w.toNat := by
  rw [orderKey_eq, sign_eq] at *
  have hw := w.isLt
  simp only [decide_eq_true_eq] at *
  split at h <;> rename_i hs
  · omega
  · rw [if_neg hs]
    omega

/-- The keys of the finite words. -/
def FiniteKey (k : ℤ) : Prop := -maxFiniteKey ≤ k ∧ k ≤ maxFiniteKey

theorem ofOrderKey_toNat {k : ℤ} (h : FiniteKey k) :
    (ofOrderKey k).toNat = (decide (k < 0)).toNat * 2 ^ 31 + k.natAbs := by
  simp only [FiniteKey, maxFiniteKey] at h
  have hword : ofOrderKey k = zero (decide (k < 0)) ||| BitVec.ofNat 32 k.natAbs := by
    by_cases hk : k < 0 <;> simp [ofOrderKey, zero, hk]
  rw [hword, zero_or_toNat _ (by omega)]

/-- The word of a key in the finite range is finite and has that key. -/
theorem ofOrderKey_spec {k : ℤ} (h : FiniteKey k) : isFinite (ofOrderKey k) = true ∧ orderKey (ofOrderKey k) = k := by
  have hnat := ofOrderKey_toNat h
  simp only [FiniteKey, maxFiniteKey] at h
  rw [isFinite_iff, expField_eq, orderKey_eq, sign_eq, hnat]
  by_cases hk : k < 0
  · simp only [hk, decide_true, Bool.toNat_true, decide_eq_true_eq]
    omega
  · simp only [hk, decide_false, Bool.toNat_false, decide_eq_true_eq]
    omega

/-- A word that counts as zero has the key 0. -/
theorem orderKey_of_isZero {w : Word} (h : isZero w = true) : orderKey w = 0 := by
  rcases (isZero_iff w).mp h with rfl | rfl <;> rfl

/-- A zero times a finite word is a zero, FTZ or not (R200). -/
theorem fmul_of_isZero {a b : Word} (ha : isZero a = true) (hb : isFinite b = true) :
    fmul a b = zero (sign a != sign b) := by
  have hfinite := isFinite_of_isZero ha
  have hunits : operandUnits Config.ftz a = 0 := valueRead_eq_zero.mp (valueRead_of_isZero ha)
  simp only [fmul, mul, not_isNaN_of_isFinite hfinite, not_isNaN_of_isFinite hb, not_isInf_of_isFinite hfinite,
    not_isInf_of_isFinite hb, hunits, Nat.zero_mul, Bool.or_self, Bool.false_eq_true, if_false, if_true]

theorem isZero_zero (neg : Bool) : isZero (zero neg) = true := by cases neg <;> decide

end Binary32

open Binary32

/-! ### WTAB (R280) -/

theorem windowWordOk_wtab (kind : WindowKind) (n i : ℕ) : windowWordOk (wtab kind n i) = true := by
  unfold wtab
  split
  · assumption
  · decide

theorem wtab_isFinite (kind : WindowKind) (n i : ℕ) : isFinite (wtab kind n i) = true :=
  (Bool.and_eq_true_iff.mp (windowWordOk_wtab kind n i)).1

theorem wtab_orderKey_nonneg (kind : WindowKind) (n i : ℕ) : 0 ≤ orderKey (wtab kind n i) := by
  have h := (Bool.and_eq_true_iff.mp (windowWordOk_wtab kind n i)).2
  rw [Bool.or_eq_true, Bool.not_eq_true'] at h
  rcases h with hsign | hzero
  · exact orderKey_nonneg hsign
  · exact (orderKey_of_isZero hzero).ge

/-! ### FFTMAG (R283) -/

theorem magnitudeOk_fftMag (n : ℕ) (xs : List Word) (k : ℕ) : magnitudeOk (fftMag n xs k) = true := by
  unfold fftMag
  split
  · decide
  · split
    · assumption
    · decide

/-- R283 (c): words that are all ±0.0 have the magnitude +0.0. -/
theorem fftMag_of_zeros (n : ℕ) {xs : List Word} (h : ∀ x ∈ xs, isZero x = true) (k : ℕ) : fftMag n xs k = posZero :=
  if_pos (List.all_eq_true.mpr h)

/-! ### DB20 (R285) -/

theorem clampKey_bounds {lo hi : ℤ} (h : lo ≤ hi) (x : ℤ) : lo ≤ clampKey lo hi x ∧ clampKey lo hi x ≤ hi := by
  unfold clampKey
  omega

/-- Below 1.0 the decibel value is negative. -/
theorem db20Key_below {b : ℕ} (h : b < 0x3F800000) : -maxFiniteKey ≤ db20Key b ∧ db20Key b ≤ -1 := by
  rw [db20Key, if_pos h]
  exact runningMax_bounds (fun i => clampKey_bounds (by decide) _) b

theorem db20Key_one : db20Key 0x3F800000 = 0 := rfl

/-- Above 1.0 the decibel value is positive. -/
theorem db20Key_above {b : ℕ} (h : 0x3F800000 < b) : 1 ≤ db20Key b ∧ db20Key b ≤ maxFiniteKey := by
  rw [db20Key, if_neg h.not_gt, if_neg h.ne']
  exact runningMax_bounds (fun i => clampKey_bounds (by decide) _) _

theorem db20Key_finite (b : ℕ) : FiniteKey (db20Key b) := by
  unfold FiniteKey
  rcases lt_trichotomy b 0x3F800000 with h | rfl | h
  · have := db20Key_below h
    omega
  · rw [db20Key_one]
    decide
  · have := db20Key_above h
    omega

/-- R285 (e): the decibel value never falls: not on either side of 1.0, and not across it. -/
theorem db20Key_mono {b b' : ℕ} (h : b ≤ b') : db20Key b ≤ db20Key b' := by
  rcases lt_trichotomy b 0x3F800000 with hb | rfl | hb
  · rcases lt_trichotomy b' 0x3F800000 with hb' | rfl | hb'
    · rw [db20Key, db20Key, if_pos hb, if_pos hb']
      exact runningMax_mono _ h
    · have := db20Key_below hb
      rw [db20Key_one]
      omega
    · have := db20Key_below hb
      have := db20Key_above hb'
      omega
  · rcases h.eq_or_lt with rfl | hb'
    · exact le_rfl
    · have := db20Key_above hb'
      rw [db20Key_one]
      omega
  · have hb' := hb.trans_le h
    rw [db20Key, db20Key, if_neg hb.not_gt, if_neg hb.ne', if_neg hb'.not_gt, if_neg hb'.ne']
    exact runningMax_mono _ (Nat.sub_le_sub_right h _)

theorem db20_isFinite (m : Word) : isFinite (db20 m) = true := (ofOrderKey_spec (db20Key_finite _)).1

theorem orderKey_db20 (m : Word) : orderKey (db20 m) = db20Key m.toNat := (ofOrderKey_spec (db20Key_finite _)).2

/-- Settles O51: the window and magnitude words pass their checks, and DB20 is the word of a key that is bounded,
monotone, and 0 at 1.0. -/
theorem openFunctionProperties : Obligations.OpenFunctionProperties := by
  have hone : isFinite one32 = true := by decide
  have hzero : isFinite posZero = true := by decide
  refine ⟨fun kind n i => ?_, fun n xs k => ?_, fun n xs k h => ?_, by decide, fun m m' hpos hm hm' => ?_⟩
  · exact ⟨wtab_isFinite kind n i,
      (lt_eq_false_iff_of_isFinite (wtab_isFinite kind n i) hzero).mpr (wtab_orderKey_nonneg kind n i)⟩
  · simpa [magnitudeOk, or_comm] using magnitudeOk_fftMag n xs k
  · exact fftMag_of_zeros n (fun x hx => (isZero_iff x).mpr (h x hx)) k
  · have hkey := orderKey_of_pos ((lt_iff_of_isFinite hzero hm).mp hpos)
    refine ⟨db20_isFinite m, fun hlt => ?_, fun hlt => ?_, fun hlt => ?_⟩
    · rw [lt_iff_of_isFinite hm hone, hkey] at hlt
      rw [lt_iff_of_isFinite (db20_isFinite m) hzero, orderKey_db20]
      exact Int.lt_of_le_sub_one (db20Key_below (Int.ofNat_lt.mp hlt)).2
    · rw [lt_iff_of_isFinite hone hm, hkey] at hlt
      rw [lt_iff_of_isFinite hzero (db20_isFinite m), orderKey_db20]
      exact (db20Key_above (Int.ofNat_lt.mp hlt)).1
    · rw [lt_iff_of_isFinite hm hm', hkey] at hlt
      have hkey' : orderKey m' = m'.toNat := orderKey_of_pos (by omega)
      rw [lt_eq_false_iff_of_isFinite (db20_isFinite m') (db20_isFinite m), orderKey_db20, orderKey_db20]
      exact db20Key_mono (by omega)

/-! ### Bins (R284, R286, R287) -/

/-- R286: the bin of a positive magnitude whose decibel value is not below the floor. -/
theorem dbfloor_of_loud {floor m : Word} (hpos : lt posZero m = true) (h : lt (db20 m) floor = false) :
    dbfloor floor m = db20 m := by
  simp [dbfloor, hpos, h]

/-- R286: the bin of a positive magnitude whose decibel value is below the floor. -/
theorem dbfloor_of_quiet {floor m : Word} (hpos : lt posZero m = true) (h : lt (db20 m) floor = true) :
    dbfloor floor m = floor := by
  simp [dbfloor, hpos, h]

/-- R286: the bin of a magnitude that is not positive. -/
theorem dbfloor_of_not_pos (floor : Word) {m : Word} (h : lt posZero m = false) : dbfloor floor m = floor := by
  simp [dbfloor, h]

/-- A bin is the floor, or a decibel value that is not below it. -/
theorem dbfloor_cases (floor m : Word) :
    dbfloor floor m = floor ∨ (dbfloor floor m = db20 m ∧ lt (db20 m) floor = false) := by
  cases hpos : lt posZero m with
  | false => exact .inl (dbfloor_of_not_pos floor hpos)
  | true =>
    cases hquiet : lt (db20 m) floor with
    | false => exact .inr ⟨dbfloor_of_loud hpos hquiet, rfl⟩
    | true => exact .inl (dbfloor_of_quiet hpos hquiet)

/-- N/2 as a binary32 word, for each FFT size (R287). -/
theorem ofNat_half_fftSize : ∀ row ∈ ([(2048, 0x44800000#32), (4096, 0x45000000#32), (8192, 0x45800000#32)] :
    List (ℕ × Word)), Binary32.ofNat (row.1 / 2) = row.2 := by decide

/-- A zero over N/2 is +0.0, FTZ or not. -/
theorem div_zero_half_fftSize : ∀ ftz : Bool, ∀ n ∈ [2048, 4096, 8192],
    Binary32.div ftz posZero (Binary32.ofNat (n / 2)) = posZero := by decide

theorem normMagnitude_of_isFinite (n : ℕ) {m : Word} (h : isFinite m = true) :
    normMagnitude n m = fdiv m (Binary32.ofNat (n / 2)) := by
  rw [normMagnitude, if_pos h]

/-- R284: a magnitude that is not finite counts as +0.0. -/
theorem normMagnitude_of_not_isFinite (n : ℕ) {m : Word} (h : isFinite m = false) :
    normMagnitude n m = normMagnitude n posZero := by
  simp only [normMagnitude, h, Bool.false_eq_true, if_false]
  rfl

theorem normMagnitude_zero {n : ℕ} (h : n ∈ [2048, 4096, 8192]) : normMagnitude n posZero = posZero :=
  div_zero_half_fftSize Config.ftz n h

/-- Settles O50: the division by N/2, and the cases of a bin. -/
theorem publishedBinsBounded : Obligations.PublishedBinsBounded := by
  refine ⟨fun row hrow m => ⟨fun hm => ?_, fun hm => ?_⟩, fun floor m => ⟨dbfloor_of_loud, dbfloor_of_quiet,
    dbfloor_of_not_pos floor, fun hfloor => ?_⟩⟩
  · rw [normMagnitude_of_isFinite row.1 hm, ofNat_half_fftSize row hrow]
  · rw [normMagnitude_of_not_isFinite row.1 hm]
    exact normMagnitude_zero (List.mem_map_of_mem (f := Prod.fst) hrow)
  · rcases dbfloor_cases floor m with h | ⟨h, hloud⟩
    · rw [h]
      exact ⟨hfloor, lt_self floor⟩
    · rw [h]
      exact ⟨db20_isFinite m, hloud⟩

/-! ### Silence (R276, R283 (c)) -/

/-- Settles O49: the windowed words are zeros, whose magnitude +0.0 has the floor as its bin. -/
theorem silenceShowsFloor : Obligations.SilenceShowsFloor := by
  intro s c hsize hsilent
  have hwindowed : ∀ x ∈ s.windowed c, isZero x = true := by
    intro x hx
    obtain ⟨i, hi, rfl⟩ := List.mem_map.mp hx
    rw [hsilent i (List.mem_range.mp hi)]
    rw [fmul_of_isZero (by decide) (wtab_isFinite _ _ i)]
    exact isZero_zero _
  have hn : s.actFftSize.toNat ∈ [2048, 4096, 8192] := by
    rcases hsize with h | h | h <;> (rw [h]; decide)
  have hbin (k : ℕ) : dbfloor s.dbFloor (normMagnitude s.actFftSize.toNat
      (fftMag s.actFftSize.toNat (s.windowed c) k)) = s.dbFloor := by
    rw [fftMag_of_zeros _ hwindowed, normMagnitude_zero hn]
    exact dbfloor_of_not_pos _ (lt_self posZero)
  rw [State.spectrum, funext hbin, List.map_const', List.length_range]

end Sys2Proof.Machine
end

section
/-! PROOFS. RENDER's steps and ticks (spec 44_fft_engine.md R271, R274–R276, R288, R289): one rule for each turn that
RENDER may take, what R_FFT leaves in the spectrum buffer, and the turns that end a tick. -/

namespace Sys2Proof.Machine

/-! ### Which step RENDER's turn is -/

theorem startEnabled_iff (s : State) :
    s.startEnabled = true ↔ s.tickReq = true ∧ s.prepared = true ∧ s.anEn = true := by
  simp [State.startEnabled, and_assoc]

/-- R271: an idle RENDER with a request it may start takes R_START. -/
theorem renderTurn_of_start {s : State} (hr : s.rstate = .idle) (h : s.startEnabled = true) :
    renderTurn s = renderStart s := by
  simp only [renderTurn, hr, h, if_true]

theorem Channel.pullable_iff (x : Channel) : x.pullable = true ↔ x.wview ≠ x.rptr := by
  simp [Channel.pullable]

/-- R274: with no frame left to pull, or none to be seen, RENDER's turn is R_NEXT. -/
theorem renderTurn_of_next {s : State} {c : Chan} {left : Nat} (hr : s.rstate = .pull c left)
    (h : left = 0 ∨ (s.ch c).wview = (s.ch c).rptr) : renderTurn s = renderNext s c := by
  have hnot : ¬(0 < left ∧ (s.ch c).pullable = true) := by
    rintro ⟨hpos, hpull⟩
    exact h.elim hpos.ne' ((Channel.pullable_iff _).mp hpull)
  rw [renderTurn, hr]
  exact if_neg hnot

/-- R276: RENDER in FFT takes R_FFT. -/
theorem renderTurn_of_fft {s : State} {c : Chan} {left : Nat} (hr : s.rstate = .fft c left) :
    renderTurn s = renderFft s c left := by
  simp only [renderTurn, hr]

/-- An idle RENDER that may not start has no step (log 21). -/
theorem not_enabled_render {s : State} (hr : s.rstate = .idle) (h : ¬s.startEnabled = true) :
    s.enabled .render = false := by
  simpa only [State.enabled, State.renderEnabled, hr, Bool.not_eq_true] using h

/-- Settles O46: each clause is one of the rules above. -/
theorem tickSequencing : Obligations.TickSequencing := by
  intro s rest hin
  refine ⟨fun hidle => ⟨fun hreq hprep han => ?_, fun hnot => ?_⟩, fun left hr h => ?_, fun left hr h => ?_⟩
  all_goals
    rw [step_turn hin]
    refine congrArg Host.Outcome.next ?_
  · exact renderTurn_of_start (s := { s with inputs := rest }) hidle ((startEnabled_iff s).mpr ⟨hreq, hprep, han⟩)
  · exact turn_without_step
      (not_enabled_render (s := { s with inputs := rest }) hidle (mt (startEnabled_iff s).mp hnot))
  · exact renderTurn_of_next (s := { s with inputs := rest }) hr h
  · exact renderTurn_of_next (s := { s with inputs := rest }) hr h

/-! ### R_FFT (R276, R288, R289) -/

theorem spectrum_length (s : State) (c : Chan) : (s.spectrum c).length = s.actFftSize.toNat / 2 := by
  simp [State.spectrum]

/-- R276, R288, R289: R_FFT writes the spectrum, counts it, announces it and returns to PULL. -/
theorem renderFft_eq (s : State) (c : Chan) (left : Nat) :
    renderFft s c left = { s.setCh c { s.ch c with specSeq := (s.ch c).specSeq + 1 } with
      rstate := .pull c left
      irqStatus := s.irqStatus ||| 0b000010#6
      spec := Memory.writeWords s.spec (specAddr c 0) (s.spectrum c) } := by
  cases c <;> rfl

/-- What is to come does not enter R_FFT. -/
theorem renderFft_withInputs (s : State) (c : Chan) (left : Nat) (l : List Input) :
    renderFft { s with inputs := l } c left = { renderFft s c left with inputs := l } := by
  cases c <;> rfl

theorem renderFft_epoch (s : State) (c : Chan) (left : Nat) : (renderFft s c left).epoch = s.epoch := by
  cases c <;> rfl

/-- R288: the published bins are read back from the spectrum buffer. -/
theorem renderFft_specWord (s : State) (c : Chan) (left : Nat) {k : Nat} (hk : k < s.actFftSize.toNat / 2) :
    (renderFft s c left).specWord c k = dbfloor s.dbFloor (normMagnitude s.actFftSize.toNat
      (fftMag s.actFftSize.toNat (s.windowed c) k)) := by
  have hspec : (renderFft s c left).spec = Memory.writeWords s.spec (specAddr c 0) (s.spectrum c) := by
    rw [renderFft_eq]
  rw [State.specWord, renderFft_epoch, hspec, specAddr_eq c k,
    Memory.readWord_writeWords _ _ _ _ _ (by rwa [spectrum_length])]
  simp [State.spectrum]

/-- R288: R_FFT leaves every byte of RAM outside the published bins. -/
theorem renderFft_ramByte (s : State) (c : Chan) (left : Nat) {a : Nat}
    (h : a < specAddr c 0 ∨ specAddr c (s.actFftSize.toNat / 2) ≤ a) :
    (renderFft s c left).ramByte a = s.ramByte a := by
  have hbuf : (renderFft s c left).buf = s.buf := by rw [renderFft_eq]; exact State.setCh_buf s c _
  have hspec : Ram.read (Config.busDraw s.epoch) (renderFft s c left).spec a
      = Ram.read (Config.busDraw s.epoch) s.spec a := by
    rw [renderFft_eq]
    refine Memory.read_writeWords_outside _ _ _ ?_
    rwa [spectrum_length, ← specAddr_eq]
  rw [State.ramByte, State.ramByte, renderFft_epoch, hbuf, hspec]

/-- Settles O48: RENDER's turn is R_FFT. -/
theorem fftPublishesSpectrum : Obligations.FftPublishesSpectrum := by
  intro s rest c left hin hr
  have hstep : step s = .next { renderFft s c left with inputs := rest } := by
    rw [step_turn hin, ← renderFft_withInputs]
    exact congrArg _ (renderTurn_of_fft (s := { s with inputs := rest }) hr)
  refine ⟨_, hstep, ?_, ?_, ?_, fun k hk => renderFft_specWord s c left hk,
    fun a ha => renderFft_ramByte s c left ha, ?_⟩
  · rw [renderFft_eq]
  · rw [renderFft_eq]
    cases c <;> rfl
  · rw [renderFft_eq]
  · rw [renderFft_eq]
    cases c <;> rfl

/-! ### Frames pulled in a tick (R275) -/

/-- The frames that RENDER may still pull of the other channel while it works on one: L comes before R (R274). -/
def otherPullsLeft : Chan → Nat
  | .L => Config.pullsPerTick
  | .R => 0

/-- The frames of a channel that RENDER may still pull before its tick ends (R274, R275). -/
def pullsLeft (d : Chan) : RenderState → Nat
  | .idle => 0
  | .pull c left => if d = c then left else otherPullsLeft c
  | .fft c left => if d = c then left else otherPullsLeft c

/-- From one state of a tick to another, RPTR of every channel has moved by no more frames than could be pulled before
and cannot any more. -/
def PullsCounted (s t : State) : Prop :=
  ∀ c, ((t.ch c).rptr - (s.ch c).rptr).val + pullsLeft c t.rstate ≤ pullsLeft c s.rstate

theorem pullsCounted_of_same_rptr {s t : State} (hptr : ∀ c, (t.ch c).rptr = (s.ch c).rptr)
    (hleft : ∀ c, pullsLeft c t.rstate ≤ pullsLeft c s.rstate) : PullsCounted s t := by
  intro c
  rw [hptr, sub_self]
  exact (Nat.zero_add _).trans_le (hleft c)

theorem PullsCounted.refl (s : State) : PullsCounted s s :=
  pullsCounted_of_same_rptr (fun _ => rfl) fun _ => le_rfl

theorem PullsCounted.trans {s t u : State} (h : PullsCounted s t) (h' : PullsCounted t u) : PullsCounted s u := by
  intro c
  have hst := h c
  have htu := h' c
  simp only [ptr_sub_val] at hst htu ⊢
  omega

/-- R245: R_PULL advances RPTR of its own channel by one. -/
theorem renderPull_rptr {s : State} {c : Chan} (hpull : (s.ch c).pullable = true) (left : Nat) (d : Chan) :
    ((renderPull s c left).ch d).rptr = if d = c then (s.ch d).rptr + 1 else (s.ch d).rptr := by
  rw [renderPull_eq s c left hpull]
  cases c <;> cases d <;> rfl

/-- R272: R_PULL uses one of the frames left. -/
theorem renderPull_pullsCounted {s : State} {c : Chan} {left : Nat} (hr : s.rstate = .pull c left) (hleft : 0 < left)
    (hpull : (s.ch c).pullable = true) : PullsCounted s (renderPull s c left) := by
  have hnext : (renderPull s c left).rstate = .fft c (left - 1) := by rw [renderPull_eq s c left hpull]
  intro d
  rw [renderPull_rptr hpull, hnext, hr]
  simp only [pullsLeft]
  split
  · have hone : ((s.ch d).rptr + 1 - (s.ch d).rptr).val = 1 := by rw [add_sub_cancel_left]; rfl
    omega
  · rw [sub_self]
    exact (Nat.zero_add _).le

/-- R274: R_NEXT gives up the frames left of its channel and turns to those of the other. -/
theorem renderNext_pullsCounted {s : State} {c : Chan} {left : Nat} (hr : s.rstate = .pull c left) :
    PullsCounted s (renderNext s c) := by
  refine pullsCounted_of_same_rptr (fun d => by cases c <;> cases d <;> rfl) fun d => ?_
  rw [hr]
  cases c with
  | L => cases d with
    | L => exact Nat.zero_le _
    | R => exact le_rfl
  | R => exact Nat.zero_le _

theorem renderFft_pullsCounted {s : State} {c : Chan} {left : Nat} (hr : s.rstate = .fft c left) :
    PullsCounted s (renderFft s c left) := by
  refine pullsCounted_of_same_rptr (fun d => by cases c <;> cases d <;> rfl) fun d => ?_
  rw [hr, renderFft_eq]
  rfl

/-- R272, R274: a turn of RENDER inside a tick pulls a frame that it might pull, or none. -/
theorem turn_render_pullsCounted {s : State} (h : s.rstate ≠ .idle) : PullsCounted s (turn .render s) := by
  simp only [turn]
  cases hr : s.rstate with
  | idle => exact absurd hr h
  | pull c left =>
    by_cases hnext : left = 0 ∨ (s.ch c).wview = (s.ch c).rptr
    · rw [renderTurn_of_next hr hnext]
      exact renderNext_pullsCounted hr
    · obtain ⟨hne, hview⟩ := not_or.mp hnext
      have hpull : (s.ch c).pullable = true := (Channel.pullable_iff _).mpr hview
      rw [renderTurn_of_pull hr (Nat.pos_of_ne_zero hne) hpull]
      exact renderPull_pullsCounted hr (Nat.pos_of_ne_zero hne) hpull
  | fft c left =>
    rw [renderTurn_of_fft hr]
    exact renderFft_pullsCounted hr

/-! ### Ticks (R275) -/

/-- R275: a step inside a tick, the reset input aside, counts what it pulls, and brings the end nearer if it is a turn
of RENDER. -/
theorem step_in_tick {s : State} {i : Input} {rest : List Input} (hbusy : s.rstate ≠ .idle)
    (hin : s.inputs = i :: rest) (hreset : i ≠ .reset) :
    ∃ t, step s = .next t ∧ ticksLeft t.rstate + [i].count (.turn .render) ≤ ticksLeft s.rstate
      ∧ PullsCounted s t ∧ t.inputs = rest := by
  have hch (c : Chan) : State.ch { s with inputs := rest } c = s.ch c := by cases c <;> rfl
  cases i with
  | reset => exact absurd rfl hreset
  | bus op =>
    obtain ⟨t, ht, heffect⟩ := exec_effect (fetched op) { s with inputs := rest }
    obtain ⟨hr, hinputs⟩ := heffect.rstate_inputs
    refine ⟨t, (step_bus hin).trans ht, by rw [hr]; exact le_rfl, ?_, hinputs⟩
    rcases heffect.channels with hsame | ⟨hidle, -⟩
    · exact pullsCounted_of_same_rptr (fun c => by rw [hsame, hch]) fun c => by rw [hr]
    · exact absurd (engineActive_eq_false.mp hidle).2 hbusy
  | turn a =>
    by_cases ha : a = .render
    · subst ha
      refine ⟨_, step_turn hin, ?_, fun c => ?_, turn_inputs .render _⟩
      · rw [List.count_singleton_self]
        exact turn_render_nearer (s := { s with inputs := rest }) hbusy
      · rw [← hch]
        exact turn_render_pullsCounted (s := { s with inputs := rest }) hbusy c
    · obtain ⟨hr, hptr⟩ := turn_rstate_of_other ha { s with inputs := rest }
      refine ⟨_, step_turn hin, ?_, pullsCounted_of_same_rptr (fun c => by rw [hptr, hch]) fun c => by rw [hr],
        turn_inputs a _⟩
      rw [List.count_eq_zero_of_not_mem (by simpa using Ne.symm ha), hr]
      exact le_rfl

/-- R275: a run of inputs without a reset, with as many turns of RENDER among them as its tick may still take, reaches
the end of the tick. -/
theorem run_ends_tick (between : List Input) {s : State} {rest : List Input} (hin : s.inputs = between ++ rest)
    (hreset : .reset ∉ between) (hleft : ticksLeft s.rstate ≤ between.count (.turn .render)) :
    ∃ k t, k ≤ between.length ∧ Sys2Proof.core.run k s = .next t ∧ t.rstate = .idle ∧ PullsCounted s t := by
  induction between generalizing s with
  | nil =>
    have hidle := (ticksLeft_eq_zero _).mp (Nat.le_zero.mp hleft)
    exact ⟨0, s, le_rfl, rfl, hidle, PullsCounted.refl s⟩
  | cons i is ih =>
    by_cases hidle : s.rstate = .idle
    · exact ⟨0, s, Nat.zero_le _, rfl, hidle, PullsCounted.refl s⟩
    obtain ⟨hne, hnot⟩ := List.ne_and_not_mem_of_not_mem_cons hreset
    have hcount : (i :: is).count (.turn .render) = [i].count (.turn .render) + is.count (.turn .render) :=
      List.count_append (l₁ := [i])
    obtain ⟨t, hstep, hnearer, hst, htin⟩ := step_in_tick hidle hin hne.symm
    obtain ⟨k, u, hk, hruns, hu, htu⟩ := ih htin hnot (by omega)
    exact ⟨k + 1, u, Nat.succ_le_succ hk, (run_step k hstep).trans hruns, hu, hst.trans htu⟩

/-- Settles O52: R_START leaves 122 turns and 30 frames of each channel, which `run_ends_tick` counts down. -/
theorem tickEndsInBoundedTurns : Obligations.TickEndsInBoundedTurns := by
  intro s between rest hidle hreq hprep han hin hreset hcount
  obtain ⟨start, -, -⟩ := tickSequencing s (between ++ rest) hin
  have hstart := (start hidle).1 hreq hprep han
  obtain ⟨k, t, hk, hruns, ht, hpulls⟩ := run_ends_tick between
    (s := { s with inputs := between ++ rest, tickReq := false, rstate := .pull .L 30 }) rfl hreset hcount.ge
  refine ⟨k, t, hk, (run_step k hstart).trans hruns, ht, fun c => ?_⟩
  have h := hpulls c
  rw [ht] at h
  cases c <;> exact h

end Sys2Proof.Machine
end

section
/-! PROOFS. The two engines do not meet (spec 44_fft_engine.md R292; 43_channel_fifo.md R240, R241, R252, R253): RENDER
and TIMER step alike whatever the audio side holds, AUDIO whatever the render side holds, and each leaves the other's
side. -/

namespace Sys2Proof.Machine

/-- A turn that has no step before or after a change of the state commutes with that change (log 21). -/
theorem turn_without_step_commutes {a : Agent} {s : State} {f : State → State} (h : s.enabled a = false)
    (hf : (f s).enabled a = false) : turn a (f s) = f (turn a s) := by
  rw [turn_without_step h, turn_without_step hf]

/-! ### RENDER and TIMER step alike whatever the audio side holds -/

theorem renderPull_withAudioSide (s u : State) {c : Chan} (hpull : (s.ch c).pullable = true) (left : Nat) :
    renderPull (s.withAudioSide u) c left = (renderPull s c left).withAudioSide u := by
  rw [renderPull_eq s c left hpull, renderPull_eq (s.withAudioSide u) c left (by cases c <;> exact hpull)]
  cases c <;> rfl

theorem renderTurn_withAudioSide (s u : State) : renderTurn (s.withAudioSide u) = (renderTurn s).withAudioSide u := by
  cases hr : s.rstate with
  | idle =>
    by_cases hstart : s.startEnabled = true
    · rw [renderTurn_of_start hr hstart, renderTurn_of_start (s := s.withAudioSide u) hr hstart]
      rfl
    · have hrest := not_enabled_render hr hstart
      exact turn_without_step_commutes (a := .render) (f := (·.withAudioSide u)) hrest hrest
  | pull c left =>
    have hviews : ((s.withAudioSide u).ch c).wview = (s.ch c).wview
        ∧ ((s.withAudioSide u).ch c).rptr = (s.ch c).rptr := by cases c <;> exact ⟨rfl, rfl⟩
    by_cases hnext : left = 0 ∨ (s.ch c).wview = (s.ch c).rptr
    · rw [renderTurn_of_next hr hnext,
        renderTurn_of_next (s := s.withAudioSide u) hr (by rwa [hviews.1, hviews.2])]
      cases c <;> rfl
    · obtain ⟨hne, hview⟩ := not_or.mp hnext
      have hpull : (s.ch c).pullable = true := (Channel.pullable_iff _).mpr hview
      rw [renderTurn_of_pull hr (Nat.pos_of_ne_zero hne) hpull,
        renderTurn_of_pull (s := s.withAudioSide u) hr (Nat.pos_of_ne_zero hne) (by cases c <;> exact hpull)]
      exact renderPull_withAudioSide s u hpull left
  | fft c left =>
    rw [renderTurn_of_fft hr, renderTurn_of_fft (s := s.withAudioSide u) hr]
    cases c <;> rfl

theorem timerTurn_withAudioSide (s u : State) : timerTurn (s.withAudioSide u) = (timerTurn s).withAudioSide u := by
  have henabled : (s.withAudioSide u).timerEnabled = s.timerEnabled := rfl
  have hfire : timerFire (s.withAudioSide u) = (timerFire s).withAudioSide u := by
    rw [timerFire, timerFire, apply_ite (fun x => State.withAudioSide x u)]
    rfl
  rw [timerTurn, timerTurn, henabled, hfire]
  exact (apply_ite (fun x => State.withAudioSide x u) _ _ _).symm

/-! ### AUDIO steps alike whatever the render side holds -/

/-- R223: with every sample done AUDIO's turn is AUDIO_DONE. -/
theorem audioTurn_of_done {s : State} {n : Nat} (h : s.astate = .run n n) : audioTurn s = audioDone s := by
  simp only [audioTurn, h, lt_irrefl, if_false, if_true]

theorem chainOver_withRenderSide (u : State) (c : Chan) (bs : List (Fin 11)) (s : State) (x : Word) :
    chainOver c bs (s.withRenderSide u) x
      = ((chainOver c bs s x).1.withRenderSide u, (chainOver c bs s x).2) := by
  induction bs generalizing s x with
  | nil => rfl
  | cons b bs ih =>
    have hbiquad : biquad (s.withRenderSide u) b c x = ((biquad s b c x).1.withRenderSide u, (biquad s b c x).2) := by
      cases c <;> rfl
    cases h : s.effBypass b with
    | true => rw [chainOver_bypassed h, chainOver_bypassed (s := s.withRenderSide u) h, ih]
    | false => rw [chainOver_active h, chainOver_active (s := s.withRenderSide u) h, hbiquad, ih]

theorem stageSample_withRenderSide (s u : State) (c : Chan) (y : Word) :
    stageSample (s.withRenderSide u) c y = (stageSample s c y).withRenderSide u := by
  cases c <;> rfl

theorem pushFrame_withRenderSide (s u : State) (c : Chan) :
    pushFrame (s.withRenderSide u) c = (pushFrame s c).withRenderSide u := by
  have hocc : ((s.withRenderSide u).ch c).occW = (s.ch c).occW := by cases c <;> rfl
  by_cases h : (s.ch c).occW < Config.cap
  · rw [pushFrame_of_room h, pushFrame_of_room (hocc ▸ h)]
    cases c <;> rfl
  · rw [pushFrame_of_full h, pushFrame_of_full (hocc ▸ h)]
    cases c <;> rfl

theorem fifoTee_withRenderSide (s u : State) (c : Chan) (y : Word) :
    fifoTee (s.withRenderSide u) c y = (fifoTee s c y).withRenderSide u := by
  have hsidx (x : State) : ((x.withRenderSide u).ch c).sidx = (x.ch c).sidx := by cases c <;> rfl
  simp only [fifoTee, stageSample_withRenderSide, pushFrame_withRenderSide, hsidx]
  exact (apply_ite (fun x => State.withRenderSide x u) _ _ _).symm

theorem sampleChannel_withRenderSide (s u : State) (c : Chan) (j : Nat) :
    sampleChannel (s.withRenderSide u) c j = (sampleChannel s c j).withRenderSide u := by
  have hword : (s.withRenderSide u).bufWord c j = s.bufWord c j := rfl
  rw [sampleChannel_eq, sampleChannel_eq, hword, chain, chain, chainOver_withRenderSide, ← fifoTee_withRenderSide]
  rfl

theorem audioTurn_withRenderSide (s u : State) : audioTurn (s.withRenderSide u) = (audioTurn s).withRenderSide u := by
  cases ha : s.astate with
  | idle =>
    have hrest : s.enabled .audio = false := by simp [State.enabled, State.audioEnabled, ha]
    exact turn_without_step_commutes (a := .audio) (f := (·.withRenderSide u)) hrest hrest
  | run j n =>
    rcases lt_trichotomy j n with hj | rfl | hj
    · rw [audioTurn_of_run ha hj, audioTurn_of_run (s := s.withRenderSide u) ha hj, audioSample, audioSample,
        sampleChannel_withRenderSide, sampleChannel_withRenderSide]
      rfl
    · rw [audioTurn_of_done ha, audioTurn_of_done (s := s.withRenderSide u) ha]
      rfl
    · have hrest : s.enabled .audio = false := by simp [State.enabled, State.audioEnabled, ha, hj]
      exact turn_without_step_commutes (a := .audio) (f := (·.withRenderSide u)) hrest hrest

/-! ### What the other agents leave of the audio side -/

/-- R252, R253, R292: no agent besides AUDIO changes the block buffers, the coefficient banks or the bypass state. -/
theorem turn_audioRegisters_of_other {a : Agent} (h : a ≠ .audio) (s : State) :
    (turn a s).buf = s.buf ∧ (turn a s).shCoef = s.shCoef ∧ (turn a s).actCoef = s.actCoef
      ∧ (turn a s).bypass = s.bypass ∧ (turn a s).actByp = s.actByp ∧ (turn a s).actLcSub = s.actLcSub
      ∧ (turn a s).actHcSub = s.actHcSub ∧ (turn a s).lcCfg = s.lcCfg ∧ (turn a s).hcCfg = s.hcCfg := by
  cases a with
  | audio => exact absurd rfl h
  | render => simp only [turn]; rw [renderTurn_frame]; simp only [and_self]
  | timer => simp only [turn]; rw [timerTurn_frame]; simp only [and_self]
  | syncW c v => simp only [turn]; rw [syncWTurn_frame]; simp
  | syncR c v => simp only [turn]; rw [syncRTurn_frame]; simp

/-- R240, R252, R253, R292: no agent besides AUDIO changes the biquad states or the producer's part of a FIFO. -/
theorem turn_producer_of_other {a : Agent} (h : a ≠ .audio) (s : State) (d : Chan) :
    ((turn a s).ch d).biquads = (s.ch d).biquads ∧ ((turn a s).ch d).stg = (s.ch d).stg
      ∧ ((turn a s).ch d).sidx = (s.ch d).sidx ∧ ((turn a s).ch d).wptr = (s.ch d).wptr
      ∧ ((turn a s).ch d).dropCnt = (s.ch d).dropCnt ∧ ((turn a s).ch d).slot = (s.ch d).slot := by
  cases a with
  | audio => exact absurd rfl h
  | render => simp only [turn]; rw [renderTurn_channel]; simp only [and_self]
  | timer => simp only [turn]; rw [timerTurn_frame]; cases d <;> exact ⟨rfl, rfl, rfl, rfl, rfl, rfl⟩
  | syncW c v =>
    simp only [turn]; rw [syncWTurn_frame]
    cases c <;> cases d <;> exact ⟨rfl, rfl, rfl, rfl, rfl, rfl⟩
  | syncR c v =>
    simp only [turn]; rw [syncRTurn_frame]
    cases c <;> cases d <;> exact ⟨rfl, rfl, rfl, rfl, rfl, rfl⟩

/-- R292: AUDIO leaves the spectrum buffers. -/
theorem audioTurn_spec (s : State) : (audioTurn s).spec = s.spec := by rw [audioTurn_frame]

/-- R222, R240, R241: AUDIO leaves the rolling buffer, the spectrum counter and the consumer's part of a FIFO. -/
theorem audioTurn_consumer (s : State) (d : Chan) :
    ((audioTurn s).ch d).roll = (s.ch d).roll ∧ ((audioTurn s).ch d).specSeq = (s.ch d).specSeq
      ∧ ((audioTurn s).ch d).rptr = (s.ch d).rptr ∧ ((audioTurn s).ch d).wview = (s.ch d).wview := by
  rw [audioTurn_channel]
  simp only [and_self]

/-- Settles O54: each agent's turn commutes with putting another state's other side in place, and has its frame. -/
theorem enginesIsolated : Obligations.EnginesIsolated := by
  intro s t a rest hin h
  rw [step_turn hin] at h
  injection h with h
  subst h
  refine ⟨fun u ha => ?_, fun u ha => ?_, fun ha => ?_, fun ha => ?_⟩
  · rw [step_turn (s := s.withAudioSide u) hin]
    rcases ha with rfl | rfl
    · exact congrArg _ (renderTurn_withAudioSide { s with inputs := rest } u)
    · exact congrArg _ (timerTurn_withAudioSide { s with inputs := rest } u)
  · subst ha
    rw [step_turn (s := s.withRenderSide u) hin]
    exact congrArg _ (audioTurn_withRenderSide { s with inputs := rest } u)
  · obtain ⟨hbuf, hsh, hact, hbyp, hactByp, hlcSub, hhcSub, hlc, hhc⟩ :=
      turn_audioRegisters_of_other ha { s with inputs := rest }
    exact ⟨hbuf, hsh, hact, hbyp, hactByp, hlcSub, hhcSub, hlc, hhc,
      turn_producer_of_other ha { s with inputs := rest }⟩
  · subst ha
    exact ⟨audioTurn_spec _, (turn_rstate_of_other (a := .audio) (by decide) _).1,
      audioTurn_consumer { s with inputs := rest }⟩

end Sys2Proof.Machine
end

section
/-! PROOFS. Nothing stops the block, and TIMER (spec 60_exceptions.md R304, R312, R318). -/

namespace Sys2Proof.Machine

/-! ### Every step goes on (R304, R312) -/

/-- R304, R312: an operation of HOST completes or records an error, and the block goes on either way. -/
theorem exec_goesOn (i : Instr) (s : State) : GoesOn (exec i s) := by
  obtain ⟨t, ht, -⟩ := exec_effect i s
  exact ⟨t, ht⟩

/-- Of what a step can take, only a bus operation answers an outcome of its own; a turn and a reset give a state. -/
theorem step_goesOn (s : State) : GoesOn (step s) := by
  cases hin : s.inputs with
  | nil => exact ⟨_, step_free hin⟩
  | cons i rest =>
    cases i with
    | bus op => rw [step_bus hin]; exact exec_goesOn _ _
    | turn a => exact ⟨_, step_turn hin⟩
    | reset => exact ⟨_, step_reset hin⟩

/-- Settles O6, from the inversions of `exec` and `step`. -/
theorem everyStepGoesOn : Obligations.EveryStepGoesOn := ⟨exec_goesOn, step_goesOn⟩

/-! ### TIMER (R318) -/

/-- R318: TIMER_FIRE is enabled while TICK_PERIOD is not 0. -/
theorem timerEnabled_iff (s : State) : s.timerEnabled = true ↔ s.tickPeriod ≠ 0 := decide_eq_true_iff

/-- R318: a running timer before its period counts. -/
theorem timerTurn_of_below {s : State} (hrun : s.tickPeriod ≠ 0) (hbelow : (s.tcnt + 1).toNat < s.tickPeriod.toNat) :
    timerTurn s = { s with tcnt := s.tcnt + 1 } := by
  rw [timerTurn, if_pos ((timerEnabled_iff s).mpr hrun), timerFire, if_neg (BitVec.not_le.mpr hbelow)]

/-- R318: a running timer at its period starts again, and requests a tick if the block is prepared and AN_EN = 1. -/
theorem timerTurn_of_period {s : State} (hrun : s.tickPeriod ≠ 0) (hperiod : s.tickPeriod.toNat ≤ (s.tcnt + 1).toNat) :
    timerTurn s = { s with tcnt := 0, tickReq := s.tickReq || (s.prepared && s.anEn) } := by
  rw [timerTurn, if_pos ((timerEnabled_iff s).mpr hrun), timerFire, if_pos (BitVec.le_def.mpr hperiod)]

/-- R60, R318: a request already made stays, and one is made where both conditions hold. -/
theorem request_or_eq_ite (request prepared anEn : Bool) :
    (request || (prepared && anEn)) = if prepared = true ∧ anEn = true then true else request := by
  split
  · next h => simp [h]
  · next h =>
    rw [← Bool.and_eq_true, Bool.not_eq_true] at h
    rw [h, Bool.or_false]

/-- Settles O53: TIMER's turn by its three cases. -/
theorem timerFires : Obligations.TimerFires := by
  intro s rest hin
  rw [step_turn hin]
  refine ⟨fun hstopped => ?_, fun hrun hbelow => ?_, fun hrun hperiod => ?_⟩
  · have hoff : State.enabled { s with inputs := rest } .timer = false :=
      decide_eq_false (not_not_intro hstopped)
    rw [turn_without_step hoff]
  · exact congrArg _ (timerTurn_of_below (s := { s with inputs := rest }) hrun hbelow)
  · rw [← request_or_eq_ite]
    exact congrArg _ (timerTurn_of_period (s := { s with inputs := rest }) hrun hperiod)

end Sys2Proof.Machine
end

section
/-! PROOFS. The canonical form of the RAMs (spec 20_memory.md; log 6): which operation writes which RAM, and that each
writes it by `Ram.write` or fills it whole, so its canonical form stays. -/

namespace Sys2Proof.Machine

/-! ### Channels and block buffers -/

theorem State.MemoryCanonical.channel {s : State} (h : s.MemoryCanonical) (c : Chan) : (s.ch c).ramsWf := by
  obtain ⟨-, -, hL, hR⟩ := h
  cases c with
  | L => exact hL
  | R => exact hR

/-- Setting a channel to one whose RAMs are canonical keeps every RAM canonical. -/
theorem State.MemoryCanonical.setCh {s : State} (h : s.MemoryCanonical) (c : Chan) {x : Channel} (hx : x.ramsWf) :
    (s.setCh c x).MemoryCanonical := by
  obtain ⟨hbuf, hspec, hL, hR⟩ := h
  cases c with
  | L => exact ⟨hbuf, hspec, hx, hR⟩
  | R => exact ⟨hbuf, hspec, hL, hx⟩

theorem State.MemoryCanonical.setBufWord {s : State} (h : s.MemoryCanonical) (c : Chan) (j : Nat) (v : Word) :
    (s.setBufWord c j v).MemoryCanonical := by
  obtain ⟨hbuf, hrest⟩ := h
  exact ⟨Memory.writeWord_wf hbuf _ _, hrest⟩

theorem State.MemoryCanonical.setBufWords {s : State} (h : s.MemoryCanonical) (c : Chan) (j : Nat) (vs : List Word) :
    (s.setBufWords c j vs).MemoryCanonical := by
  obtain ⟨hbuf, hrest⟩ := h
  exact ⟨Memory.writeWords_wf hbuf _ _, hrest⟩

/-! ### Operations of HOST -/

/-- R136: PREPARE fills ROLL whole and keeps STG and SLOT. -/
theorem Channel.ramsWf.prepared {x : Channel} (h : x.ramsWf) : x.prepared.ramsWf := by
  obtain ⟨hstg, hslot, -⟩ := h
  exact ⟨hstg, hslot, Ram.filled_wf _⟩

theorem prepareEffect_memoryCanonical {s : State} (h : s.MemoryCanonical) : (prepareEffect s).MemoryCanonical := by
  obtain ⟨hbuf, -, hL, hR⟩ := h
  exact ⟨hbuf, Ram.filled_wf _, hL.prepared, hR.prepared⟩

theorem clearMissingInputs_memoryCanonical {s : State} (h : s.MemoryCanonical) (n : Nat) :
    (clearMissingInputs s n).MemoryCanonical := by
  have hleft : State.MemoryCanonical
      (if s.inCh.toNat ≤ 0 then s.setBufWords .L 0 (List.replicate n posZero) else s) := by
    split
    · exact h.setBufWords .L 0 _
    · exact h
  unfold clearMissingInputs
  dsimp only
  split
  · exact hleft.setBufWords .R 0 _
  · exact hleft

/-- R140: of the RAMs PROCESS writes BUF only, by the clearing of missing inputs. -/
theorem processEffect_memoryCanonical {s : State} (h : s.MemoryCanonical) (n : Nat) :
    (processEffect s n).MemoryCanonical := by
  obtain ⟨hbuf, -⟩ := clearMissingInputs_memoryCanonical h n
  obtain ⟨-, hrest⟩ := h
  rw [processEffect_eq]
  exact ⟨hbuf, hrest⟩

/-- R131: of the RAMs a REG_WRITE writes BUF only, word by word. -/
theorem writeRegion_memoryCanonical {s : State} (h : s.MemoryCanonical) (r : Region) (v : Word) :
    (s.writeRegion r v).MemoryCanonical := by
  cases r with
  | buf c j => exact h.setBufWord c j v
  | ctrl r =>
    cases r with
    | dbFloor => simp only [State.writeRegion, State.writeReg]; split <;> exact h
    | _ => exact h
  | _ => exact h

theorem HostEffect.memoryCanonical {s t : State} (hs : s.MemoryCanonical) (h : HostEffect s t) :
    t.MemoryCanonical := by
  cases h with
  | prepare idle legal => exact prepareEffect_memoryCanonical (s := s) hs
  | process n prepared idle fits => exact processEffect_memoryCanonical hs n.toNat
  | setCut cut x => cases cut <;> exact hs
  | read a ok => unfold readSideEffect; split <;> exact hs
  | write a v ok notCmd => exact writeRegion_memoryCanonical hs _ v
  | _ => exact hs

/-! ### AUDIO -/

/-- R204: the chain writes biquad states, no RAM. -/
theorem chain_memoryCanonical {s : State} (h : s.MemoryCanonical) (c : Chan) (x : Word) :
    (chain s c x).1.MemoryCanonical := by
  rw [chain_frame]
  exact h.setCh c (h.channel c)

/-- R241: a staged sample is one write of STG. -/
theorem stageSample_memoryCanonical {s : State} (h : s.MemoryCanonical) (c : Chan) (y : Word) :
    (stageSample s c y).MemoryCanonical := by
  obtain ⟨hstg, hslot, hroll⟩ := h.channel c
  exact h.setCh c ⟨Ram.write_wf hstg _ _, hslot, hroll⟩

/-- R241: an accepted push writes one slot, a refused one no RAM. -/
theorem pushFrame_memoryCanonical {s : State} (h : s.MemoryCanonical) (c : Chan) :
    (pushFrame s c).MemoryCanonical := by
  obtain ⟨hstg, hslot, hroll⟩ := h.channel c
  unfold pushFrame
  dsimp only
  split
  · exact h.setCh c ⟨hstg, Ram.writeList_wf hslot _ _, hroll⟩
  · exact h.setCh c ⟨hstg, hslot, hroll⟩

theorem fifoTee_memoryCanonical {s : State} (h : s.MemoryCanonical) (c : Chan) (y : Word) :
    (fifoTee s c y).MemoryCanonical := by
  have hstaged := stageSample_memoryCanonical h c y
  unfold fifoTee
  dsimp only
  split
  · exact pushFrame_memoryCanonical hstaged c
  · exact hstaged

/-- R222: the chain, the write of its output to BUF, and the tee. -/
theorem sampleChannel_memoryCanonical {s : State} (h : s.MemoryCanonical) (c : Chan) (j : Nat) :
    (sampleChannel s c j).MemoryCanonical := by
  rw [sampleChannel_eq]
  exact fifoTee_memoryCanonical ((chain_memoryCanonical h c _).setBufWord c j _) c _

theorem audioTurn_memoryCanonical {s : State} (h : s.MemoryCanonical) : (audioTurn s).MemoryCanonical := by
  unfold audioTurn
  split
  · exact h
  · rename_i j n _
    split
    · exact sampleChannel_memoryCanonical (sampleChannel_memoryCanonical h .L j) .R j
    · split <;> exact h

/-! ### RENDER -/

/-- R245, R272: a pull reads SLOT and writes ROLL. -/
theorem renderPull_memoryCanonical {s : State} (h : s.MemoryCanonical) {c : Chan}
    (hpull : (s.ch c).pullable = true) (left : Nat) : (renderPull s c left).MemoryCanonical := by
  obtain ⟨hstg, hslot, hroll⟩ := h.channel c
  rw [renderPull_eq s c left hpull]
  exact h.setCh c ⟨hstg, hslot, Ram.writeList_wf hroll _ _⟩

/-- R276, R288: publishing a spectrum writes SPEC. -/
theorem renderFft_memoryCanonical {s : State} (h : s.MemoryCanonical) (c : Chan) (left : Nat) :
    (renderFft s c left).MemoryCanonical := by
  obtain ⟨hbuf, -, hchannels⟩ :=
    h.setCh c (x := { s.ch c with specSeq := (s.ch c).specSeq + 1 }) (h.channel c)
  obtain ⟨-, hspec, -⟩ := h
  rw [renderFft_eq]
  exact ⟨hbuf, Memory.writeWords_wf hspec _ _, hchannels⟩

theorem renderTurn_memoryCanonical {s : State} (h : s.MemoryCanonical) : (renderTurn s).MemoryCanonical := by
  unfold renderTurn
  split
  · split <;> exact h
  · rename_i c left _
    split
    · rename_i hp
      exact renderPull_memoryCanonical h hp.2 left
    · cases c <;> exact h
  · rename_i c left _
    exact renderFft_memoryCanonical h c left

/-! ### Every step -/

theorem turn_memoryCanonical (a : Agent) (s : State) (h : s.MemoryCanonical) : (turn a s).MemoryCanonical := by
  cases a with
  | audio => exact audioTurn_memoryCanonical h
  | render => exact renderTurn_memoryCanonical h
  | timer => simp only [turn]; rw [timerTurn_frame]; exact h
  | syncW c v => simp only [turn]; rw [syncWTurn_frame]; exact h.setCh c (h.channel c)
  | syncR c v => simp only [turn]; rw [syncRTurn_frame]; exact h.setCh c (h.channel c)

/-- Settles O55: HOST writes BUF and PREPARE fills SPEC and ROLL, AUDIO writes BUF, STG and SLOT, RENDER writes ROLL and
SPEC, no other agent writes a RAM, and the reset input leaves them unwritten. -/
theorem stepKeepsMemoryCanonical : Obligations.StepKeepsMemoryCanonical := fun _ _ hs h =>
  invariant_of_effects (P := State.MemoryCanonical) (fun _ _ _ h => h) (fun _ _ h he => he.memoryCanonical h)
    turn_memoryCanonical (fun _ => reset_memoryCanonical) hs h

end Sys2Proof.Machine
end
